-- ==== Sys2Proof/Word.lean ====
section
/-! DEFINITION. The word types of the interface (00_scope.md R10, R11): bytes, 16-bit fields, 32-bit bus words and
12-bit bus offsets. Every value is unsigned. -/

namespace Sys2Proof

/-- An 8-bit unsigned value (R11). -/
abbrev Byte := BitVec 8

/-- A 16-bit field: a command's ARG, a frame's length (R10). -/
abbrev Half := BitVec 16

/-- The 32-bit bus data width, which is also the width of every counter and of a command word (R10). -/
abbrev Word := BitVec 32

/-- A 12-bit byte offset in the block's 4 KiB window (R10, R16). -/
abbrev Offset := BitVec 12

end Sys2Proof
end

