-- ==== Sys2Proof/Syntax.lean ====
section
/-! DEFINITION. The commands (30_encoding.md R58, one constructor per row of spec/opcode_table.json), the command
word's format (R56), and an assembler line (R68). -/

namespace Sys2Proof

/-- A command with its operand (R57, R58). The operand types are exactly the operands the encoding admits, so every
value of this type is a well-formed command; what can be ill-formed is a word or an assembler line
(WellFormed.lean). -/
inductive Instr where
  | push (b : Byte)
  | pop
  | peek
  | peekAt (n : Half)
  | discard (n : Half)
  | available
  | free
  | capacity
  | clear
  | rxByte (b : Byte)
  | parse
  | checksum
  | encode
  deriving DecidableEq, Repr

/-- The three fields of a command word in the one format CMD32 (R56). -/
structure CommandWord where
  /-- OP, bits [7:0]: the operation selector. -/
  op : Byte
  /-- RSV, bits [15:8]: reserved, must be 0. -/
  rsv : Byte
  /-- ARG, bits [31:16]: the 16-bit unsigned operand. -/
  arg : Half
  deriving DecidableEq, Repr

/-- The three operand forms of R57. -/
inductive OperandKind where
  /-- No operand: the whole of ARG must be 0. -/
  | none
  /-- Byte operand: `b = ARG[7:0]`, and `ARG[15:8]` must be 0. -/
  | byte
  /-- Count or offset operand: `n = ARG[15:0]`. -/
  | count
  deriving DecidableEq, Repr

/-- The mnemonics of R58, as an assembler line names them (R68). -/
inductive Mnemonic where
  | PUSH | POP | PEEK | PEEKAT | DISCARD | AVAILABLE | FREE | CAPACITY | CLEAR | RXBYTE | PARSE | CHECKSUM | ENCODE
  deriving DecidableEq, Repr

/-- An assembler line: a mnemonic followed by at most one operand, a number (R68; its text is read in
Decode.lean). -/
structure AsmLine where
  mnemonic : Mnemonic
  operand : Option Nat
  deriving DecidableEq, Repr

end Sys2Proof
end

