-- ==== Sys2Proof/WellFormed.lean ====
section
/-! DEFINITION. Which command words are legal, written from the list of illegal words in 30_encoding.md R61 (the
decoder is written from the match/mask table of R59 instead), and which assembler lines are (R68). -/

namespace Sys2Proof

/-- The operand form of each opcode of R58; `none` for an OP that is not listed. -/
def operandKindOf (op : Byte) : Option OperandKind :=
  if op = 0x01 ∨ op = 0x0A then some .byte
  else if op = 0x04 ∨ op = 0x05 then some .count
  else if op = 0x02 ∨ op = 0x03 ∨ op = 0x06 ∨ op = 0x07 ∨ op = 0x08 ∨ op = 0x09 ∨ op = 0x10 ∨ op = 0x20 ∨
      op = 0x21 then some .none
  else Option.none

/-- R61 read as a check: the OP is assigned, RSV is 0, a no-operand command has ARG = 0, and a byte-operand command
has `ARG[15:8] = 0`. -/
def CommandWord.wf (c : CommandWord) : Bool :=
  c.rsv == 0 &&
    match operandKindOf c.op with
    | Option.none => false
    | some .none => c.arg == 0
    | some .byte => c.arg.extractLsb' 8 8 == 0
    | some .count => true

/-- The fields of a word (R56). -/
def CommandWord.ofWord (w : Word) : CommandWord :=
  ⟨w.extractLsb' 0 8, w.extractLsb' 8 8, w.extractLsb' 16 16⟩

/-- The operand form each mnemonic takes (R58, R68). -/
def Mnemonic.operandKind : Mnemonic → OperandKind
  | .PUSH | .RXBYTE => .byte
  | .PEEKAT | .DISCARD => .count
  | .POP | .PEEK | .AVAILABLE | .FREE | .CAPACITY | .CLEAR | .PARSE | .CHECKSUM | .ENCODE => .none

/-- R68: a mnemonic written with an operand it does not take, or with an operand out of range, is an assembly error;
so is one written without the operand it takes. -/
def AsmLine.wf (a : AsmLine) : Bool :=
  match a.mnemonic.operandKind, a.operand with
  | .none, Option.none => true
  | .byte, some n => n ≤ 0xFF
  | .count, some n => n ≤ 0xFFFF
  | _, _ => false

end Sys2Proof
end

