-- ==== Sys2Proof/Decode.lean ====
section
/-! DEFINITION. The decoder, a table of match and mask as in 30_encoding.md R59, total on every 32-bit word and
rejecting by name (R60, R61); the encoder, from the same rules; and the assembler of R68. A command is one 32-bit
word written whole to CMD (R26, R56), so the decoder reads a word, not a list of bytes. -/

namespace Sys2Proof

/-- Why a word is no command (R61), by name. -/
inductive IllegalWord where
  /-- OP is 0x00 or another OP that R58 does not list. -/
  | unassignedOp
  /-- RSV is not 0. -/
  | reservedNonzero
  /-- A no-operand command with ARG not 0. -/
  | operandNotTaken
  /-- A byte-operand command with `ARG[15:8]` not 0. -/
  | byteOperandTooWide
  deriving DecidableEq, Repr

/-- The byte operand of a word, `b = ARG[7:0]`, that is bits [23:16] (R57). -/
def byteOperand (w : Word) : Byte := w.extractLsb' 16 8

/-- The count or offset operand of a word, `n = ARG[15:0]`, that is bits [31:16] (R57). -/
def countOperand (w : Word) : Half := w.extractLsb' 16 16

/-- A row of R59's table: a word `w` selects it iff `w & mask = match`. -/
structure OpcodeRow where
  pattern : Word
  mask : Word
  build : Word → Instr

/-- R59's table, row by row. -/
def opcodeRows : List OpcodeRow :=
  [ ⟨0x00000001, 0xFF00FFFF, fun w => .push (byteOperand w)⟩,
    ⟨0x00000002, 0xFFFFFFFF, fun _ => .pop⟩,
    ⟨0x00000003, 0xFFFFFFFF, fun _ => .peek⟩,
    ⟨0x00000004, 0x0000FFFF, fun w => .peekAt (countOperand w)⟩,
    ⟨0x00000005, 0x0000FFFF, fun w => .discard (countOperand w)⟩,
    ⟨0x00000006, 0xFFFFFFFF, fun _ => .available⟩,
    ⟨0x00000007, 0xFFFFFFFF, fun _ => .free⟩,
    ⟨0x00000008, 0xFFFFFFFF, fun _ => .capacity⟩,
    ⟨0x00000009, 0xFFFFFFFF, fun _ => .clear⟩,
    ⟨0x0000000A, 0xFF00FFFF, fun w => .rxByte (byteOperand w)⟩,
    ⟨0x00000010, 0xFFFFFFFF, fun _ => .parse⟩,
    ⟨0x00000020, 0xFFFFFFFF, fun _ => .checksum⟩,
    ⟨0x00000021, 0xFFFFFFFF, fun _ => .encode⟩ ]

/-- Whether a word selects a row (R59). -/
def OpcodeRow.selects (r : OpcodeRow) (w : Word) : Bool := (w &&& r.mask) == r.pattern

/-- Which bullet of R61 a word falls under, for a word that selects no row. -/
def illegalReason (w : Word) : IllegalWord :=
  let c := CommandWord.ofWord w
  match operandKindOf c.op with
  | none => .unassignedOp
  | some k =>
    if c.rsv ≠ 0 then .reservedNonzero
    else match k with
      | .byte => .byteOperandTooWide
      | _ => .operandNotTaken

/-- R60: the word selects at most one row, and decoding looks only at the word. -/
def decode (w : Word) : Except IllegalWord Instr :=
  match opcodeRows.find? (fun r => r.selects w) with
  | some r => .ok (r.build w)
  | none => .error (illegalReason w)

/-- A command word from ARG and OP, with RSV = 0 (R56). -/
def commandWord (arg : Half) (op : Byte) : Word := arg ++ 0#8 ++ op

/-- The word of a command (R57, R58, R68). -/
def encode : Instr → Word
  | .push b => commandWord (b.setWidth 16) 0x01
  | .pop => commandWord 0 0x02
  | .peek => commandWord 0 0x03
  | .peekAt n => commandWord n 0x04
  | .discard n => commandWord n 0x05
  | .available => commandWord 0 0x06
  | .free => commandWord 0 0x07
  | .capacity => commandWord 0 0x08
  | .clear => commandWord 0 0x09
  | .rxByte b => commandWord (b.setWidth 16) 0x0A
  | .parse => commandWord 0 0x10
  | .checksum => commandWord 0 0x20
  | .encode => commandWord 0 0x21

/-- The command a mnemonic stands for, with its operand (R58). -/
def Mnemonic.toInstr (m : Mnemonic) (operand : Nat) : Instr :=
  match m with
  | .PUSH => .push (BitVec.ofNat 8 operand)
  | .POP => .pop
  | .PEEK => .peek
  | .PEEKAT => .peekAt (BitVec.ofNat 16 operand)
  | .DISCARD => .discard (BitVec.ofNat 16 operand)
  | .AVAILABLE => .available
  | .FREE => .free
  | .CAPACITY => .capacity
  | .CLEAR => .clear
  | .RXBYTE => .rxByte (BitVec.ofNat 8 operand)
  | .PARSE => .parse
  | .CHECKSUM => .checksum
  | .ENCODE => .encode

/-- R68: the word an assembler line assembles to; `none` is an assembly error and no command word. -/
def assemble (a : AsmLine) : Option Word :=
  if a.wf then some (encode (a.mnemonic.toInstr (a.operand.getD 0))) else none

/-- The value of a digit in a base up to 16; hex digits above 9 in either case (log 19). -/
def digitOf (base : Nat) (c : Char) : Option Nat :=
  let n := c.toNat
  let d := if 48 ≤ n ∧ n ≤ 57 then n - 48 else if 65 ≤ n ∧ n ≤ 70 then n - 55
    else if 97 ≤ n ∧ n ≤ 102 then n - 87 else base
  if d < base then some d else none

/-- The number a nonempty digit string spells in a base, after a prefix of value `acc`; `none` if some character is
no digit. -/
def numeral (base : Nat) : Nat → List Char → Option Nat
  | acc, [] => some acc
  | acc, c :: cs => (digitOf base c).bind (fun d => numeral base (acc * base + d) cs)

/-- An operand's text: a decimal or `0x` hex number (R68). -/
def operandOf : List Char → Option Nat
  | [] => none
  | '0' :: 'x' :: c :: cs => numeral 16 0 (c :: cs)
  | c :: cs => numeral 10 0 (c :: cs)

/-- Each mnemonic's text (R58). -/
def Mnemonic.text : Mnemonic → List Char
  | .PUSH => ['P', 'U', 'S', 'H']
  | .POP => ['P', 'O', 'P']
  | .PEEK => ['P', 'E', 'E', 'K']
  | .PEEKAT => ['P', 'E', 'E', 'K', 'A', 'T']
  | .DISCARD => ['D', 'I', 'S', 'C', 'A', 'R', 'D']
  | .AVAILABLE => ['A', 'V', 'A', 'I', 'L', 'A', 'B', 'L', 'E']
  | .FREE => ['F', 'R', 'E', 'E']
  | .CAPACITY => ['C', 'A', 'P', 'A', 'C', 'I', 'T', 'Y']
  | .CLEAR => ['C', 'L', 'E', 'A', 'R']
  | .RXBYTE => ['R', 'X', 'B', 'Y', 'T', 'E']
  | .PARSE => ['P', 'A', 'R', 'S', 'E']
  | .CHECKSUM => ['C', 'H', 'E', 'C', 'K', 'S', 'U', 'M']
  | .ENCODE => ['E', 'N', 'C', 'O', 'D', 'E']

/-- The mnemonic a text names, if any. -/
def mnemonicOf (cs : List Char) : Option Mnemonic :=
  [Mnemonic.PUSH, .POP, .PEEK, .PEEKAT, .DISCARD, .AVAILABLE, .FREE, .CAPACITY, .CLEAR, .RXBYTE, .PARSE, .CHECKSUM,
    .ENCODE].find? (fun m => m.text == cs)

/-- The words of a text between its spaces, `w` being the word read so far, last character first. -/
def wordsOf : List Char → List Char → List (List Char)
  | w, [] => if w.isEmpty then [] else [w.reverse]
  | w, c :: cs =>
    if c = ' ' then (if w.isEmpty then wordsOf [] cs else w.reverse :: wordsOf [] cs)
    else wordsOf (c :: w) cs

/-- R68: a line's text, `MNEMONIC [operand]`; `none` if it has no such form. -/
def readLine (text : List Char) : Option AsmLine :=
  match wordsOf [] text with
  | [m] => (mnemonicOf m).map (fun m => ⟨m, none⟩)
  | [m, n] => (mnemonicOf m).bind (fun m => (operandOf n).map (fun n => ⟨m, some n⟩))
  | _ => none

/-- R68 on text: the word a line assembles to; `none` is an assembly error. -/
def assembleText (text : List Char) : Option Word := (readLine text).bind assemble

/-- The host's entry to the decoder: an instruction of `nbits` bits `w`, the bits above `nbits` 0 (log 20). -/
def decodeTableWord (nbits w : Nat) : Option Instr :=
  if nbits ≤ 32 then
    match decode (BitVec.ofNat 32 (w % 2 ^ nbits)) with
    | .ok i => some i
    | .error _ => none
  else none

end Sys2Proof
end

