-- ==== Sys2Proof/Config.lean ====
section
/-! DEFINITION. What an implementation fixes (00_scope.md R8, R9; 20_memory.md R39) and the free values: the bytes
of a storage that nothing has written since reset (93_implementation_defined.md I1, I2). -/

namespace Sys2Proof

/-- The configuration parameters of R9, and BASE of R39. They are not state: no step changes them (R126). -/
structure Config where
  /-- RX_CAPACITY: the receive ring's size in bytes. -/
  rxCapacity : Nat
  /-- SCAN_WINDOW: the start-sentinel search bound in bytes. -/
  scanWindow : Nat
  /-- OVF_CHUNK: the bytes evicted on overflow. -/
  ovfChunk : Nat
  /-- BASE: the platform address of offset 0x000 (R39, OPEN). -/
  base : Nat
  deriving DecidableEq, Repr

/-- The legal ranges of R9. BASE is a multiple of the window's 4 KiB (DEDUCED, log 10: the block decodes only
`addr[11:0]`, and offsets are taken from BASE; the two agree exactly when BASE is so aligned). -/
abbrev Config.Legal (c : Config) : Prop :=
  7 ≤ c.rxCapacity ∧ c.rxCapacity ≤ 65535 ∧ 1 ≤ c.scanWindow ∧ c.scanWindow ≤ 65535 ∧
    1 ≤ c.ovfChunk ∧ c.ovfChunk ≤ c.rxCapacity ∧ c.base % 4096 = 0

/-- The spec's defaults of R9 (BASE 0: DESIGN CHOICE, log 10). -/
def Config.default : Config := ⟨1024, 256, 64, 0⟩

/-- MAX_PAYLOAD (R8). -/
abbrev maxPayload : Nat := 512
/-- START, the start sentinel (R8). -/
abbrev startSentinel : Byte := 0xAA
/-- END, the end sentinel (R8). -/
abbrev endSentinel : Byte := 0x55
/-- HDR, the minimum header: start, code, two length bytes and sequence (R8). -/
abbrev headerSize : Nat := 5
/-- FTR: checksum and end (R8). -/
abbrev footerSize : Nat := 2
/-- MAX_FRAME = 519 (R8, 90_conflicts.md C1). -/
abbrev maxFrame : Nat := headerSize + maxPayload + footerSize

/-- Free value (log 7): what slot `i` of RXBUF holds after the `draw`-th reset, until it is written (R38, I2). -/
opaque Config.freeRxByte (draw i : Nat) : Byte

/-- Free value (log 6): what PKT_PAYLOAD[i] holds after the `draw`-th reset, until it is written (R38, I1). -/
opaque Config.freePktByte (draw i : Nat) : Byte

/-- Free value (log 6): what TX_PAYLOAD[i] holds after the `draw`-th reset, until it is written (R38, I1). -/
opaque Config.freeTxByte (draw i : Nat) : Byte

end Sys2Proof
end

