-- ==== Sys2Proof/Machine/State.lean ====
section
/-! DEFINITION. The block's state (10_state.md R19), its outcome codes (60_exceptions.md R111), the steps its
surroundings can ask for (20_memory.md R48, 30_encoding.md R69), and the state after reset (R38). -/

namespace Sys2Proof.Machine

/-- The outcome codes of STATUS.CAUSE by name (R111). The reserved codes 0x7, 0xD and 0xE, never produced, have no
name (log 21). -/
inductive Cause where
  | ok
  | empty
  | full
  | range
  | tooLong
  | illegal
  | evicted
  | npShort
  | npNoStart
  | npIncomplete
  | npBadCsum
  | npBadEnd
  | noCmd
  deriving DecidableEq, Repr

/-- Byte storage by index: the bytes written since reset, as (index, byte) cells in strictly rising order. An index
that is not listed has no written byte; what reading it gives is in Machine/Ops.lean (log 6, log 7). -/
abbrev Memory := List Host.Cell

/-- The width of a host access: 1, 2 or 4 bytes (R16). -/
inductive AccessWidth where
  | byte
  | half
  | word
  deriving DecidableEq, Repr

/-- One step of the block's surroundings (R48, R69): a host access, an RX arrival, or reset. -/
inductive Event where
  /-- `RD8`, `RD16`, `RD32`: a host read. -/
  | read (off : Offset) (n : AccessWidth)
  /-- `WR8`, `WR16`, `WR32`: a host write of the low `n` bytes of `v`. A command is a write of its word to CMD. -/
  | write (off : Offset) (n : AccessWidth) (v : Word)
  /-- `RX b`: an arrival of byte `b` on the RX port. -/
  | rx (b : Byte)
  /-- Reset (R126). -/
  | reset
  deriving DecidableEq, Repr

/-- How a host access ends (R16). -/
inductive Response where
  /-- A read's data, zero-extended to the bus width, with an OK response. -/
  | data (v : Word)
  /-- A write's OK response. -/
  | ok
  /-- The BUS_ERROR response, with the offset accessed (R12, R114). -/
  | busError (off : Offset)
  deriving DecidableEq, Repr

/-- What stops the machine with a fault: nothing (R116: "The block never enters a state it cannot leave, and it never
refuses a step"; log 11). No definition of the model raises a fault. -/
inductive Fault where
  deriving DecidableEq, Repr

/-- Why an instruction has no meaning. -/
inductive Refusal where
  /-- Raised only by an arm of `exec` whose instruction is not modelled; no arm is now. Safe: no claim about such an
  instruction could be proved. -/
  | notModelled (mnemonic : String)
  deriving DecidableEq, Repr

/-- The block's complete state (R19), the configuration it is built with (R9, log 1), and three fields of the model's
own (`resets`, `inputs`, `responses`: log 8, 2, 4). -/
structure State where
  /-- The configuration; no step changes it (R126). -/
  cfg : Config
  /-- RXBUF[0..RX_CAPACITY-1], ring storage. -/
  rxbuf : Memory
  /-- RD, the read cursor: index of the oldest byte. -/
  rd : Nat
  /-- WR, the write cursor: index of the next free slot. -/
  wr : Nat
  /-- FILL, the fill count. -/
  fill : Nat
  /-- PEAK, the peak fill since reset. -/
  peak : Nat
  /-- OVF_COUNT, rejected pushes. -/
  ovfCount : Word
  /-- OVF, the sticky overflow flag, STATUS[3]. -/
  ovf : Bool
  /-- ILL, the sticky illegal-command flag, STATUS[4]. -/
  ill : Bool
  /-- TX_COUNT, frames encoded. -/
  txCount : Word
  /-- RX_COUNT, valid frames parsed. -/
  rxCount : Word
  /-- ERR_COUNT, framing errors. -/
  errCount : Word
  /-- CSUM_ERR_COUNT, checksum errors. -/
  csumErrCount : Word
  /-- RESULT, data result of the last command. -/
  result : Word
  /-- CAUSE, outcome code of the last command, STATUS[11:8]. -/
  cause : Cause
  /-- PKT_CODE, the last parsed packet's code. -/
  pktCode : Byte
  /-- PKT_SEQ, the last parsed packet's sequence. -/
  pktSeq : Byte
  /-- PKT_LEN, the last parsed packet's length. -/
  pktLen : Half
  /-- PKT_PAYLOAD[0..511], the last parsed packet's payload. -/
  pktPayload : Memory
  /-- TX_CODE, code to encode. -/
  txCode : Byte
  /-- TX_SEQ, sequence to encode. -/
  txSeq : Byte
  /-- TX_LEN, payload length to encode. -/
  txLen : Half
  /-- TX_PAYLOAD[0..511], payload to encode. -/
  txPayload : Memory
  /-- TXOUT, the bytes emitted on the TX port since reset, oldest first (R18). -/
  txout : List Byte
  /-- The model's own: how many reset steps have run, the draw number of the free values (log 8). -/
  resets : Nat
  /-- The model's own: the steps of the surroundings still to come, in the order the block arbitrates them (log 2). -/
  inputs : List Event
  /-- The model's own: the responses the host port has given, oldest first (R137, log 4). -/
  responses : List Response
  deriving DecidableEq, Repr

/-- The state after reset of a block built with configuration `c` (R38). The storages list nothing: their contents
are unspecified. -/
def State.resetWith (c : Config) : State where
  cfg := c
  rxbuf := []
  rd := 0
  wr := 0
  fill := 0
  peak := 0
  ovfCount := 0
  ovf := false
  ill := false
  txCount := 0
  rxCount := 0
  errCount := 0
  csumErrCount := 0
  result := 0
  cause := .noCmd
  pktCode := 0
  pktSeq := 0
  pktLen := 0
  pktPayload := []
  txCode := 0
  txSeq := 0
  txLen := 0
  txPayload := []
  txout := []
  resets := 0
  inputs := []
  responses := []

/-- The machine right after reset, with the spec's default configuration (R9, R38; log 1). -/
def State.reset : State := State.resetWith Config.default

end Sys2Proof.Machine
end

