-- ==== Sys2Proof/Machine/Ops.lean ====
section
/-! DEFINITION. The named operations over storage and registers: byte storage, the ring's primitives
(40_receive_buffer.md R71 to R75), how a command ends (60_exceptions.md R112, R113), the ports
(10_state.md R16 to R18) and reset (70_reset_and_hazards.md R126). The block has no trap (R118), so no exception is
taken anywhere: ILLEGAL_COMMAND and BUS_ERROR are the whole of its error reporting. -/

namespace Sys2Proof.Machine

/-! ## Byte storage -/

/-- The byte written at index `a`, if one has been since reset. -/
def Memory.cellAt : Memory → Nat → Option Byte
  | [], _ => none
  | (k, b) :: rest, a => if a = k then some b else Memory.cellAt rest a

/-- Write byte `b` at index `a`, keeping the indexes strictly rising. -/
def Memory.store : Memory → Nat → Byte → Memory
  | [], a, b => [(a, b)]
  | (k, c) :: rest, a, b =>
    if a < k then (a, b) :: (k, c) :: rest
    else if a = k then (a, b) :: rest
    else (k, c) :: Memory.store rest a b

/-- Write the bytes one after the other from index `a` on. -/
def Memory.storeAll : Memory → Nat → List Byte → Memory
  | m, _, [] => m
  | m, a, b :: bs => Memory.storeAll (Memory.store m a b) (a + 1) bs

/-- The canonical form: indexes strictly rising. An unlisted index has no written byte, so no entry can equal what
an unlisted one holds. -/
abbrev Memory.wf (m : Memory) : Prop := m.Pairwise (fun x y => x.1 < y.1)

/-- Every listed index is below `n`. -/
abbrev Memory.Below (m : Memory) (n : Nat) : Prop := ∀ x ∈ m, x.1 < n

/-! ## One byte of each storage -/

/-- RXBUF[j]: the byte written there, or the free value of a slot never written since reset (R38, I2, log 7). -/
def slot (s : State) (j : Nat) : Byte :=
  (Memory.cellAt s.rxbuf j).getD (Config.freeRxByte s.resets j)

/-- PKT_PAYLOAD[i]: the byte written there, or its free value (R36, R38, I1, log 6). -/
def pktByte (s : State) (i : Nat) : Byte :=
  (Memory.cellAt s.pktPayload i).getD (Config.freePktByte s.resets i)

/-- TX_PAYLOAD[i]: the byte written there, or its free value (R37, R38, I1, log 6). -/
def txByte (s : State) (i : Nat) : Byte :=
  (Memory.cellAt s.txPayload i).getD (Config.freeTxByte s.resets i)

/-- `RB(i)`, the i-th oldest byte of the ring: `RXBUF[(RD + i) mod CAP]` (R71). Every rule that reads it checks
`i < FILL` first. -/
def ringByte (s : State) (i : Nat) : Byte :=
  slot s ((s.rd + i) % s.cfg.rxCapacity)

/-! ## How a command ends -/

/-- `finish(c, r)`: `CAUSE <- c; RESULT <- r` and nothing else (R12, R112). -/
def finish (c : Cause) (r : Word) (s : State) : State :=
  { s with cause := c, result := r }

/-- `ILLEGAL_COMMAND(w)`: `ILL <- 1; finish(ILLEGAL, 0)` (R113). The word is not recorded. -/
def illegalCommand (s : State) : State :=
  finish .illegal 0 { s with ill := true }

/-! ## The ring -/

/-- `STORE(b)` (R72); its precondition is `FILL < CAP` (log 12). -/
def storeByte (b : Byte) (s : State) : State :=
  { s with
    rxbuf := Memory.store s.rxbuf s.wr b
    wr := (s.wr + 1) % s.cfg.rxCapacity
    fill := s.fill + 1
    peak := max s.peak (s.fill + 1) }

/-- `DROP(k)` (R73); its precondition is `k ≤ FILL` (log 12). -/
def dropOldest (k : Nat) (s : State) : State :=
  { s with
    rd := (s.rd + k) % s.cfg.rxCapacity
    fill := s.fill - k }

/-- The rejected push of `PUSH_PRIM`: OVF_COUNT + 1 modulo 2^32, OVF set, nothing stored (R74). -/
def rejectPush (s : State) : State :=
  { s with ovfCount := s.ovfCount + 1, ovf := true }

/-- `PUSH_PRIM(b) -> bool` (R74): whether the byte was stored, and the state after. -/
def pushPrim (b : Byte) (s : State) : Bool × State :=
  if s.fill = s.cfg.rxCapacity then (false, rejectPush s) else (true, storeByte b s)

/-- `RX_ARRIVE(b) -> e` (R75): how many of the oldest bytes were evicted, and the state after. -/
def rxArrive (b : Byte) (s : State) : Nat × State :=
  match pushPrim b s with
  | (true, s') => (0, s')
  | (false, s') =>
    let e := min s'.cfg.ovfChunk s'.fill
    (e, storeByte b (dropOldest e s'))

/-- CLEAR's effect on the ring: FILL and both cursors to 0 (R85). -/
def clearRing (s : State) : State :=
  { s with rd := 0, wr := 0, fill := 0 }

/-! ## Ports and reset -/

/-- An RX port arrival: RX_ARRIVE, its result discarded; RESULT and CAUSE are not written (R76). -/
def rxPortArrival (b : Byte) (s : State) : State := (rxArrive b s).2

/-- `Emit(b)`: append `b` to TXOUT; the sink always accepts (R18). -/
def emit (b : Byte) (s : State) : State :=
  { s with txout := s.txout ++ [b] }

/-- Emit the bytes of a list in order. -/
def emitAll : List Byte → State → State
  | [], s => s
  | b :: bs, s => emitAll bs (emit b s)

/-- Record how a host access ends (R16; the model's own observation, log 4). -/
def respond (r : Response) (s : State) : State :=
  { s with responses := s.responses ++ [r] }

/-- Reset as one atomic step (R126): every piece of state to its value of R38, the configuration unchanged. The
unspecified bytes are drawn anew; the surroundings' pending steps and the host's record stay (log 8, log 16). -/
def performReset (s : State) : State :=
  { State.resetWith s.cfg with
    resets := s.resets + 1
    inputs := s.inputs
    responses := s.responses }

end Sys2Proof.Machine
end

