-- ==== Sys2Proof/Machine/Flags.lean ====
section
/-! DEFINITION. The outcome codes' numbers (60_exceptions.md R111) and the STATUS register: its live and sticky flags
and its write-1-to-clear bits (10_state.md R28). -/

namespace Sys2Proof.Machine

/-- The 4-bit code of each cause (R111). -/
def Cause.code : Cause → BitVec 4
  | .ok => 0x0
  | .empty => 0x1
  | .full => 0x2
  | .range => 0x3
  | .tooLong => 0x4
  | .illegal => 0x5
  | .evicted => 0x6
  | .npShort => 0x8
  | .npNoStart => 0x9
  | .npIncomplete => 0xA
  | .npBadCsum => 0xB
  | .npBadEnd => 0xC
  | .noCmd => 0xF

/-- STATUS.OK: 1 iff CAUSE = 0x0, combinational (R28). -/
def okFlag (s : State) : Bool := s.cause.code == 0

/-- STATUS.EMPTY: 1 iff FILL = 0, live (R28). -/
def emptyFlag (s : State) : Bool := s.fill == 0

/-- STATUS.FULL: 1 iff FILL = RX_CAPACITY, live (R28). -/
def fullFlag (s : State) : Bool := s.fill == s.cfg.rxCapacity

/-- The STATUS register as read: [0] OK, [1] EMPTY, [2] FULL, [3] OVF, [4] ILL, [7:5] 0, [11:8] CAUSE, [31:12] 0
(R28). -/
def statusWord (s : State) : Word :=
  0#20 ++ s.cause.code ++ 0#3 ++ BitVec.ofBool s.ill ++ BitVec.ofBool s.ovf ++ BitVec.ofBool (fullFlag s) ++
    BitVec.ofBool (emptyFlag s) ++ BitVec.ofBool (okFlag s)

/-- A write of `v` to STATUS: bit 3 clears OVF, bit 4 clears ILL, nothing else changes (R28, R46). -/
def clearSticky (v : Word) (s : State) : State :=
  { s with
    ovf := s.ovf && !v.getLsbD 3
    ill := s.ill && !v.getLsbD 4 }

end Sys2Proof.Machine
end

