-- ==== Sys2Proof/Machine/Operands.lean ====
section
/-! DEFINITION. The operand forms: the wire's length bytes (30_encoding.md R64), the TX operands of ENCODE and
CHECKSUM (R67), the bus's byte lanes (20_memory.md R43, R44), and the fields of the header registers
(10_state.md R33 to R35). -/

namespace Sys2Proof.Machine

/-- `L = zext_16(len_lo) | (zext_16(len_hi) << 8)` (R64). -/
def lengthOf (lo hi : Byte) : Half := lo.setWidth 16 ||| (hi.setWidth 16 <<< 8)

/-- `L[7:0]`, the length byte that goes first on the wire (R63). -/
def lengthLo (l : Half) : Byte := l.extractLsb' 0 8

/-- `L[15:8]` (R63). -/
def lengthHi (l : Half) : Byte := l.extractLsb' 8 8

/-- `RB(i), …, RB(i + n - 1)`. -/
def ringBytes (s : State) (i n : Nat) : List Byte := (List.range n).map (fun k => ringByte s (i + k))

/-- `TX_PAYLOAD[0 … n-1]` (R67). -/
def txBytes (s : State) (n : Nat) : List Byte := (List.range n).map (txByte s)

/-- `PKT_PAYLOAD[0 … n-1]`. -/
def pktBytes (s : State) (n : Nat) : List Byte := (List.range n).map (pktByte s)

/-- The number of bytes of an access (R16). -/
def AccessWidth.bytes : AccessWidth → Nat
  | .byte => 1
  | .half => 2
  | .word => 4

/-- Byte lane `k` of a bus word, `v[8k+7:8k]` (R44). -/
def lane (v : Word) (k : Nat) : Byte := v.extractLsb' (8 * k) 8

/-- The first `n` byte lanes of a bus word, lowest address first (R43). -/
def lanes (v : Word) (n : Nat) : List Byte := (List.range n).map (lane v)

/-- The value of consecutive bytes, lowest address first: `Σ byte[a+k] << 8k` (R43). -/
def littleEndian : List Byte → Word
  | [] => 0
  | b :: bs => b.setWidth 32 ||| (littleEndian bs <<< 8)

/-- PKT_HDR as read: [7:0] PKT_CODE, [15:8] PKT_SEQ, [31:16] PKT_LEN (R33). -/
def pktHdrWord (s : State) : Word := s.pktLen ++ s.pktSeq ++ s.pktCode

/-- TX_HDR as read: [7:0] TX_CODE, [15:8] TX_SEQ, [31:16] TX_LEN (R34). -/
def txHdrWord (s : State) : Word := s.txLen ++ s.txSeq ++ s.txCode

/-- PARAM as read: [15:0] SCAN_WINDOW, [31:16] OVF_CHUNK (R35). -/
def paramWord (s : State) : Word := BitVec.ofNat 16 s.cfg.ovfChunk ++ BitVec.ofNat 16 s.cfg.scanWindow

/-- A write of `v` to TX_HDR; the value is not checked (R34, R46). -/
def writeTxHdr (v : Word) (s : State) : State :=
  { s with
    txCode := v.extractLsb' 0 8
    txSeq := v.extractLsb' 8 8
    txLen := v.extractLsb' 16 16 }

/-- A write of bytes to TX_PAYLOAD from index `i` on (R37, R46). -/
def writeTxPayload (i : Nat) (bs : List Byte) (s : State) : State :=
  { s with txPayload := Memory.storeAll s.txPayload i bs }

end Sys2Proof.Machine
end

