-- ==== Sys2Proof/Machine/Checksum.lean ====
section
/-! DEFINITION. The checksum function, one for both directions (42_checksum.md R102, R103), and the CHECKSUM command
(R106). -/

namespace Sys2Proof.Machine

/-- `CSUM(code, lo, hi, seq, [p0, …])`: the 8-bit XOR over the covered bytes in order (R102). -/
def csum (code lo hi seq : Byte) (payload : List Byte) : Byte :=
  payload.foldl (fun c p => c ^^^ p) (code ^^^ lo ^^^ hi ^^^ seq)

/-- The checksum of the frame that TX_HDR and TX_PAYLOAD describe (R67, R106, R107). -/
def txCsum (s : State) : Byte :=
  csum s.txCode (lengthLo s.txLen) (lengthHi s.txLen) s.txSeq (txBytes s s.txLen.toNat)

/-- CHECKSUM (R106): the checksum ENCODE would emit, without emitting anything. -/
def execChecksum (s : State) : Host.Outcome State Fault Refusal :=
  if s.txLen.toNat > maxPayload then .next (finish .tooLong 0 s)
  else .next (finish .ok ((txCsum s).setWidth 32) s)

end Sys2Proof.Machine
end

