-- ==== Sys2Proof/Machine/Parser.lean ====
section
/-! DEFINITION. The framer/parser: PARSE_ONE's eight steps and the PARSE command (41_framer_parser.md R88, R89). -/

namespace Sys2Proof.Machine

/-- PARSE_ONE's outcomes (R88): one packet-ready, five no-packet-yet (90_conflicts.md C3). -/
inductive ParseOutcome where
  | packet
  | npShort
  | npNoStart
  | npIncomplete
  | npBadCsum
  | npBadEnd
  deriving DecidableEq, Repr

/-- `cause(o)` (R89). -/
def ParseOutcome.cause : ParseOutcome → Cause
  | .packet => .ok
  | .npShort => .npShort
  | .npNoStart => .npNoStart
  | .npIncomplete => .npIncomplete
  | .npBadCsum => .npBadCsum
  | .npBadEnd => .npBadEnd

/-- ERR_COUNT + 1 modulo 2^32 (R32). -/
def countErr (s : State) : State := { s with errCount := s.errCount + 1 }

/-- CSUM_ERR_COUNT + 1 modulo 2^32 (R32). -/
def countCsumErr (s : State) : State := { s with csumErrCount := s.csumErrCount + 1 }

/-- RX_COUNT + 1 modulo 2^32 (R32). -/
def countRx (s : State) : State := { s with rxCount := s.rxCount + 1 }

/-- What the scan of step 2 leaves: whether it stands at a start byte, how many bytes it dropped, and the state. -/
structure ScanResult where
  found : Bool
  dropped : Nat
  state : State

/-- Step 2's loop, with `k` the bytes dropped so far and FILL steps of fuel at its start, which suffice because each
turn drops a byte and the scan returns when FILL = 0 (log 13). -/
def scanForStart : Nat → Nat → State → ScanResult
  | 0, k, s => ⟨false, k, s⟩
  | fuel + 1, k, s =>
    if ringByte s 0 = startSentinel then ⟨true, k, s⟩
    else
      let s' := dropOldest 1 s
      if s'.fill = 0 ∨ k + 1 = s'.cfg.scanWindow then ⟨false, k + 1, s'⟩
      else scanForStart fuel (k + 1) s'

/-- How one pass through PARSE_ONE's loop ends: it returns an outcome, or step 4 re-enters the loop; either way with
the bytes this pass dropped. -/
inductive PassResult where
  | done (o : ParseOutcome) (dropped : Nat) (state : State)
  | again (dropped : Nat) (state : State)

/-- Step 8: deliver the packet of length `L` at the ring's front, drop its frame, count it (R97). -/
def acceptPacket (L : Nat) (s : State) : State :=
  let delivered := { s with
    pktCode := ringByte s 1
    pktSeq := ringByte s 4
    pktLen := BitVec.ofNat 16 L
    pktPayload := Memory.storeAll s.pktPayload 0 (ringBytes s 5 L) }
  countRx (dropOldest (headerSize + L + footerSize) delivered)

/-- Step 7 and step 8 for a wholly buffered frame of length `L`: the checksum first, then the end sentinel
(R95 to R97). -/
def validateFrame (L : Nat) (s : State) : PassResult :=
  let expected := csum (ringByte s 1) (ringByte s 2) (ringByte s 3) (ringByte s 4) (ringBytes s 5 L)
  if expected ≠ ringByte s (5 + L) then .done .npBadCsum 1 (dropOldest 1 (countErr (countCsumErr s)))
  else if ringByte s (6 + L) ≠ endSentinel then .done .npBadEnd 1 (dropOldest 1 (countErr s))
  else .done .packet (headerSize + L + footerSize) (acceptPacket L s)

/-- Steps 3 to 8 with a start byte at the ring's front and a whole header buffered (R92 to R97). -/
def attemptFrame (s : State) : PassResult :=
  let L := (lengthOf (ringByte s 2) (ringByte s 3)).toNat
  if L > maxPayload then .again 1 (dropOldest 1 (countErr s))
  else if s.fill < headerSize + L + footerSize then .done .npIncomplete 0 s
  else validateFrame L s

/-- The same result with `k` more bytes dropped. -/
def PassResult.addDropped (k : Nat) : PassResult → PassResult
  | .done o d s => .done o (k + d) s
  | .again d s => .again (k + d) s

/-- One pass through PARSE_ONE's loop: step 1, step 2 with its post-scan check, and the rest (R90, R91). -/
def parsePass (s : State) : PassResult :=
  if s.fill < headerSize then .done .npShort 0 s
  else
    let r := scanForStart s.fill 0 s
    if r.found = false then .done .npNoStart r.dropped r.state
    else if r.state.fill < headerSize then .done .npShort r.dropped r.state
    else (attemptFrame r.state).addDropped r.dropped

/-- PARSE_ONE's loop, with `d` the bytes dropped so far and FILL + 1 passes of fuel at its start, which suffice
because each pass returns or drops a byte (R98, log 13). -/
def parseLoop : Nat → Nat → State → ParseOutcome × Nat × State
  | 0, d, s => (.npShort, d, s)
  | fuel + 1, d, s =>
    match parsePass s with
    | .done o k s' => (o, d + k, s')
    | .again k s' => parseLoop fuel (d + k) s'

/-- `PARSE_ONE()` (R88). -/
def parseOne (s : State) : ParseOutcome × Nat × State := parseLoop (s.fill + 1) 0 s

/-- PARSE (R89): one framer/parser attempt; RESULT is the number of bytes removed. -/
def execParse (s : State) : Host.Outcome State Fault Refusal :=
  match parseOne s with
  | (o, d, s') => .next (finish o.cause (BitVec.ofNat 32 d) s')

end Sys2Proof.Machine
end

