-- ==== Sys2Proof/Machine/ReceiveBuffer.lean ====
section
/-! DEFINITION. The receive buffer commands (40_receive_buffer.md R77 to R86), one meaning each. -/

namespace Sys2Proof.Machine

/-- PUSH b (R77): the primitive push; it never evicts. -/
def execPush (b : Byte) (s : State) : Host.Outcome State Fault Refusal :=
  match pushPrim b s with
  | (true, s') => .next (finish .ok 1 s')
  | (false, s') => .next (finish .full 0 s')

/-- POP (R78): remove the oldest byte and return it. -/
def execPop (s : State) : Host.Outcome State Fault Refusal :=
  if s.fill = 0 then .next (finish .empty 0 s)
  else .next (finish .ok ((ringByte s 0).setWidth 32) (dropOldest 1 s))

/-- PEEK (R79): return the oldest byte, changing nothing. -/
def execPeek (s : State) : Host.Outcome State Fault Refusal :=
  if s.fill = 0 then .next (finish .empty 0 s)
  else .next (finish .ok ((ringByte s 0).setWidth 32) s)

/-- PEEKAT n (R80): return the byte at offset n from the oldest. -/
def execPeekAt (n : Half) (s : State) : Host.Outcome State Fault Refusal :=
  if n.toNat ≥ s.fill then .next (finish .range 0 s)
  else .next (finish .ok ((ringByte s n.toNat).setWidth 32) s)

/-- DISCARD n (R81): remove up to n of the oldest bytes. -/
def execDiscard (n : Half) (s : State) : Host.Outcome State Fault Refusal :=
  let k := min n.toNat s.fill
  .next (finish .ok (BitVec.ofNat 32 k) (dropOldest k s))

/-- AVAILABLE (R82): the fill count. -/
def execAvailable (s : State) : Host.Outcome State Fault Refusal :=
  .next (finish .ok (BitVec.ofNat 32 s.fill) s)

/-- FREE (R83): the free space. -/
def execFree (s : State) : Host.Outcome State Fault Refusal :=
  .next (finish .ok (BitVec.ofNat 32 (s.cfg.rxCapacity - s.fill)) s)

/-- CAPACITY (R84): the ring size. -/
def execCapacity (s : State) : Host.Outcome State Fault Refusal :=
  .next (finish .ok (BitVec.ofNat 32 s.cfg.rxCapacity) s)

/-- CLEAR (R85): empty the ring; PEAK, the flags and the counters are kept. -/
def execClear (s : State) : Host.Outcome State Fault Refusal :=
  .next (finish .ok (BitVec.ofNat 32 s.fill) (clearRing s))

/-- RXBYTE b (R86): a host-issued byte arrival, with overflow eviction. -/
def execRxByte (b : Byte) (s : State) : Host.Outcome State Fault Refusal :=
  match rxArrive b s with
  | (e, s') => .next (finish (if e = 0 then .ok else .evicted) (BitVec.ofNat 32 e) s')

end Sys2Proof.Machine
end

