-- ==== Sys2Proof/Machine/Transmit.lean ====
section
/-! DEFINITION. The transmit encoder (43_transmit_encoder.md R107). -/

namespace Sys2Proof.Machine

/-- The emissions of ENCODE in R107's order: start sentinel, code, length low byte first, sequence, payload,
checksum, end sentinel. -/
def emitFrame (s : State) : State :=
  let header := [startSentinel, s.txCode, lengthLo s.txLen, lengthHi s.txLen, s.txSeq]
  let payload := txBytes s s.txLen.toNat
  let footer := [txCsum s, endSentinel]
  emitAll footer (emitAll payload (emitAll header s))

/-- TX_COUNT + 1 modulo 2^32 (R32, R107). -/
def countTx (s : State) : State := { s with txCount := s.txCount + 1 }

/-- ENCODE (R107): build one frame from TX_HDR and TX_PAYLOAD and emit it whole, or reject it with nothing
emitted. -/
def execEncode (s : State) : Host.Outcome State Fault Refusal :=
  if s.txLen.toNat > maxPayload then .next (finish .tooLong 0 s)
  else .next (finish .ok (BitVec.ofNat 32 (headerSize + s.txLen.toNat + footerSize)) (countTx (emitFrame s)))

end Sys2Proof.Machine
end

