-- ==== Sys2Proof/Machine/Dispatch.lean ====
section
/-! DEFINITION. One arm per command (30_encoding.md R58, R60). -/

namespace Sys2Proof.Machine

def exec (i : Instr) (s : State) : Host.Outcome State Fault Refusal :=
  match i with
  | .push b => Sys2Proof.Machine.execPush b s
  | .pop => Sys2Proof.Machine.execPop s
  | .peek => Sys2Proof.Machine.execPeek s
  | .peekAt n => Sys2Proof.Machine.execPeekAt n s
  | .discard n => Sys2Proof.Machine.execDiscard n s
  | .available => Sys2Proof.Machine.execAvailable s
  | .free => Sys2Proof.Machine.execFree s
  | .capacity => Sys2Proof.Machine.execCapacity s
  | .clear => Sys2Proof.Machine.execClear s
  | .rxByte b => Sys2Proof.Machine.execRxByte b s
  | .parse => Sys2Proof.Machine.execParse s
  | .checksum => Sys2Proof.Machine.execChecksum s
  | .encode => Sys2Proof.Machine.execEncode s

end Sys2Proof.Machine
end

