-- ==== Sys2Proof/Machine/Bus.lean ====
section
/-! DEFINITION. The host port: which accesses are legal (20_memory.md R40, R41), reads (R45, 10_state.md R25 to R37),
writes (R46), EXECUTE (30_encoding.md R60), and one step of the surroundings (20_memory.md R48). -/

namespace Sys2Proof.Machine

/-- The regions of the window (R40); its two reserved regions are one here. -/
inductive Region where
  | registers
  | reserved
  | pktPayload
  | txPayload
  deriving DecidableEq, Repr

/-- The region an offset lies in (R40). -/
def regionOf (a : Offset) : Region :=
  if a.toNat < 0x038 then .registers
  else if a.toNat < 0x400 then .reserved
  else if a.toNat < 0x600 then .pktPayload
  else if a.toNat < 0x800 then .txPayload
  else .reserved

/-- Whether an access is legal (R41). -/
def legalAccess (a : Offset) (n : AccessWidth) : Bool :=
  match regionOf a with
  | .registers => n == .word && a.toNat % 4 == 0
  | .pktPayload => a.toNat % n.bytes == 0
  | .txPayload => a.toNat % n.bytes == 0
  | .reserved => false

/-- The platform address of an offset (R39, log 10). -/
def busAddress (c : Config) (a : Offset) : Nat := c.base + a.toNat

/-- The offset the block decodes from a platform address: `addr[11:0]` (R39). -/
def busOffset (addr : Nat) : Offset := BitVec.ofNat 12 addr

/-- REG_READ: the register at an offset, CMD reading 0 (R25 to R35, R45). -/
def regRead (a : Offset) (s : State) : Word :=
  match a.toNat with
  | 0x004 => s.result
  | 0x008 => statusWord s
  | 0x00C => BitVec.ofNat 32 s.fill
  | 0x010 => BitVec.ofNat 32 s.cfg.rxCapacity
  | 0x014 => BitVec.ofNat 32 s.peak
  | 0x018 => s.ovfCount
  | 0x01C => s.txCount
  | 0x020 => s.rxCount
  | 0x024 => s.errCount
  | 0x028 => s.csumErrCount
  | 0x02C => pktHdrWord s
  | 0x030 => txHdrWord s
  | 0x034 => paramWord s
  | _ => 0

/-- `MemRead(a, n)` of a legal access (R45). -/
def memRead (a : Offset) (n : AccessWidth) (s : State) : Word :=
  match regionOf a with
  | .registers => regRead a s
  | .pktPayload => littleEndian ((List.range n.bytes).map (fun k => pktByte s (a.toNat - 0x400 + k)))
  | .txPayload => littleEndian ((List.range n.bytes).map (fun k => txByte s (a.toNat - 0x600 + k)))
  | .reserved => 0

/-- A host read (R42, R45): it changes no state of the block; the host is answered. -/
def hostRead (a : Offset) (n : AccessWidth) (s : State) : State :=
  if legalAccess a n then respond (.data (memRead a n s)) s
  else respond (.busError a) s

/-- `EXECUTE(w)` (R60): run the command the word encodes, or ILLEGAL_COMMAND. -/
def execute (w : Word) (s : State) : Host.Outcome State Fault Refusal :=
  match decode w with
  | .ok i => exec i s
  | .error _ => .next (illegalCommand s)

/-- `MemWrite(a, n, v)` of a legal access to anything but CMD (R46): STATUS, TX_HDR and TX_PAYLOAD take the write,
every other location ignores it. -/
def plainWrite (a : Offset) (n : AccessWidth) (v : Word) (s : State) : State :=
  match regionOf a with
  | .registers =>
    if a.toNat = 0x008 then clearSticky v s
    else if a.toNat = 0x030 then writeTxHdr v s
    else s
  | .txPayload => writeTxPayload (a.toNat - 0x600) (lanes v n.bytes) s
  | .pktPayload => s
  | .reserved => s

/-- A host write (R42, R46). The OK response of a legal write is recorded before its effect; the two are one atomic
step (R48). -/
def hostWrite (a : Offset) (n : AccessWidth) (v : Word) (s : State) : Host.Outcome State Fault Refusal :=
  if legalAccess a n then
    if a.toNat = 0x000 then execute v (respond .ok s)
    else .next (plainWrite a n v (respond .ok s))
  else .next (respond (.busError a) s)

/-- One step of the surroundings, whole and indivisible (R48). -/
def perform (e : Event) (s : State) : Host.Outcome State Fault Refusal :=
  match e with
  | .read a n => .next (hostRead a n s)
  | .write a n v => hostWrite a n v s
  | .rx b => .next (rxPortArrival b s)
  | .reset => .next (performReset s)

/-- The bus step that issues a command word: a 32-bit write to CMD (R26, R69). -/
def commandWrite (w : Word) : Event := .write 0x000 .word w

end Sys2Proof.Machine
end

