-- ==== Sys2Proof/Machine/Step.lean ====
section
/-! DEFINITION. The step: the next pending step of the surroundings, or nothing (10_state.md R23, 20_memory.md R48,
R49). -/

namespace Sys2Proof.Machine

/-- One step: the block takes the first pending step of its surroundings. With none pending it does nothing: it acts
only on a host access, an arrival or reset (R23, log 3). -/
def step (s : State) : Host.Outcome State Fault Refusal :=
  match s.inputs with
  | [] => .next s
  | e :: rest => perform e { s with inputs := rest }

/-- The state with an `nbits`-bit command word issued as the very next step: a host write of it to CMD at the front
of the pending steps (log 9). -/
def State.withFetchWord (s : State) (nbits w : Nat) : State :=
  { s with inputs := commandWrite (BitVec.ofNat 32 (w % 2 ^ nbits)) :: s.inputs }

end Sys2Proof.Machine
end

