-- ==== Sys2Proof/Machine/HostProgram.lean ====
section
/-! DEFINITION. Host programs (30_encoding.md R69) and the pseudo-operations SEND, CLROVF, CLRILL, STALECLEAR and
SERVICE (R70, 41_framer_parser.md R99, 43_transmit_encoder.md R110). They are the host's, not the block's: lists of
steps, and for SERVICE, which decides as it goes, a host that chooses its next bus access from the responses it got,
with RX arrivals falling between any two of them. -/

namespace Sys2Proof.Machine

/-- A bare command in a host program: an abbreviation of `WR32 0x000, <its word>` (R69). -/
def commandStep (i : Instr) : Event := commandWrite (encode i)

/-- An assembler line in a host program; `none` is an assembly error (R68, R69). -/
def asmStep (text : List Char) : Option Event := (assembleText text).map commandWrite

/-- CLROVF: `WR32 0x008, 0x00000008` (R70). -/
def clrOvf : Event := .write 0x008 .word 0x00000008

/-- CLRILL: `WR32 0x008, 0x00000010` (R70). -/
def clrIll : Event := .write 0x008 .word 0x00000010

/-- STALECLEAR: CLEAR (R70). -/
def staleClear : Event := commandStep .clear

/-- SEND's payload writes: `WR8 0x600+i, pi`, from index `i` on (R70). -/
def sendPayload : Nat → List Byte → List Event
  | _, [] => []
  | i, p :: ps => .write (BitVec.ofNat 12 (0x600 + i)) .byte (p.setWidth 32) :: sendPayload (i + 1) ps

/-- SEND's header: `(L << 16) | (seq << 8) | code` (R70). -/
def sendHeader (code seq : Byte) (length : Nat) : Word := BitVec.ofNat 16 length ++ seq ++ code

/-- SEND code, seq, p0 … pL−1: the payload writes, the TX_HDR write, then ENCODE (R70, R110; log 18). -/
def sendSteps (code seq : Byte) (payload : List Byte) : List Event :=
  sendPayload 0 payload ++
    [.write 0x030 .word (sendHeader code seq payload.length), commandStep .encode]

/-- A packet as the host reads it from PKT_HDR and PKT_PAYLOAD (R99). -/
structure Packet where
  code : Byte
  seq : Byte
  len : Half
  payload : List Byte
  deriving DecidableEq, Repr

/-- The packet the PKT registers hold: PKT_CODE, PKT_SEQ, PKT_LEN and PKT_PAYLOAD[0 … PKT_LEN−1] (R99). -/
def readPacket (s : State) : Packet := ⟨s.pktCode, s.pktSeq, s.pktLen, pktBytes s s.pktLen.toNat⟩

/-! ## SERVICE -/

/-- What SERVICE does next (R70, R99). The widths of its reads are the model's (log 17). -/
inductive ServicePhase where
  /-- Issue PARSE. -/
  | parse
  /-- Read STATUS, for its CAUSE field. -/
  | status
  /-- Read PKT_HDR. -/
  | header
  /-- Read the next byte of PKT_PAYLOAD, the header's fields and the bytes `got` having been read. -/
  | payload (code seq : Byte) (len : Half) (got : List Byte)
  /-- Exited: the last PARSE gave no packet. -/
  | done
  deriving DecidableEq, Repr

/-- A SERVICE under way: what it does next, the packets appended so far, oldest first, and how many PARSE commands it
has issued. -/
structure Service where
  phase : ServicePhase
  out : List Packet
  parses : Nat
  deriving DecidableEq, Repr

/-- A SERVICE at its start: `out <- []` (R99). -/
def Service.start : Service := ⟨.parse, [], 0⟩

/-- The bus access SERVICE makes next; none once it has exited (R70). -/
def Service.access (sv : Service) : Option Event :=
  match sv.phase with
  | .parse => some (commandStep .parse)
  | .status => some (.read 0x008 .word)
  | .header => some (.read 0x02C .word)
  | .payload _ _ _ got => some (.read (BitVec.ofNat 12 (0x400 + got.length)) .byte)
  | .done => none

/-- With the header's fields and the payload bytes `got` read: go on reading the payload, or append the packet and
loop (R99). -/
def Service.collect (code seq : Byte) (len : Half) (got : List Byte) (sv : Service) : Service :=
  if got.length < len.toNat then { sv with phase := .payload code seq len got }
  else { sv with phase := .parse, out := sv.out ++ [⟨code, seq, len, got⟩] }

/-- How SERVICE goes on from the response to its access: after PARSE it reads STATUS; on `STATUS.CAUSE ≠ 0x0` it
exits, else it reads PKT_HDR and PKT_PAYLOAD (R70). A response that is none to its access leaves it where it is. -/
def Service.observe (r : Response) (sv : Service) : Service :=
  match sv.phase, r with
  | .parse, .ok => { sv with phase := .status, parses := sv.parses + 1 }
  | .status, .data v => { sv with phase := if v.extractLsb' 8 4 = 0 then .header else .done }
  | .header, .data v => sv.collect (v.extractLsb' 0 8) (v.extractLsb' 8 8) (v.extractLsb' 16 16) []
  | .payload code seq len got, .data v => sv.collect code seq len (got ++ [v.setWidth 8])
  | _, _ => sv

/-- Whose step is taken next while a host program runs: the host's, or the producer's (R49, R137). -/
inductive Turn where
  | host
  | rx (b : Byte)
  deriving DecidableEq, Repr

/-- The byte a turn delivers, if it is the producer's. -/
def Turn.arrival : Turn → Option Byte
  | .host => none
  | .rx b => some b

/-- The bytes a schedule of turns delivers, in order. -/
def arrivals (ts : List Turn) : List Byte := ts.filterMap Turn.arrival

/-- One step of the surroundings taken now, before those already pending. -/
def stepOn (e : Event) (s : State) : Host.Outcome State Fault Refusal := step { s with inputs := e :: s.inputs }

/-- One turn while SERVICE runs: an arrival, or SERVICE's next bus access and what it makes of the response. -/
def serviceTurn (turn : Turn) (sv : Service) (s : State) : Host.Outcome (Service × State) Fault Refusal :=
  match turn with
  | .rx b =>
    match stepOn (.rx b) s with
    | .next t => .next (sv, t)
    | .fault f => .fault f
    | .refused r => .refused r
  | .host =>
    match sv.access with
    | none => .next (sv, s)
    | some e =>
      match stepOn e s with
      | .next t =>
        match t.responses.getLast? with
        | some r => .next (sv.observe r, t)
        | none => .next (sv, t)
      | .fault f => .fault f
      | .refused r => .refused r

/-- SERVICE run under a schedule of turns: every interleaving of its bus accesses with RX arrivals is some schedule
(R49, R99, R137). The loop has no bound: it goes on for as long as the schedule gives the host turns and PARSE gives
packets. -/
def serviceRun : List Turn → Service → State → Host.Outcome (Service × State) Fault Refusal
  | [], sv, s => .next (sv, s)
  | turn :: ts, sv, s =>
    match serviceTurn turn sv s with
    | .next (sv', s') => serviceRun ts sv' s'
    | .fault f => .fault f
    | .refused r => .refused r

/-- SERVICE with no arrival interleaved, from its start to its exit (R99). FILL + 2 accesses are enough: a packet takes
3 + L of them and removes at least 7 + L bytes, and the last PARSE and STATUS read take two (log 17). -/
def service (s : State) : Host.Outcome (Service × State) Fault Refusal :=
  serviceRun (List.replicate (s.fill + 2) .host) Service.start s

end Sys2Proof.Machine
end

