-- ==== Sys2Proof/Safety.lean ====
section
/-! DEFINITION. The terms claims are stated in: the live bytes, the invariants of 10_state.md R20, frames, what a host
can tell apart (R24), the wire frame (30_encoding.md R63) and a parser over plain byte lists written from the prose of
41_framer_parser.md R90 to R97, beside the machine's loop from R88's pseudocode. -/

namespace Sys2Proof.Machine

/-- The live bytes `RB(0) … RB(FILL-1)`, oldest first (R24, R71). -/
def live (s : State) : List Byte := (List.range s.fill).map (ringByte s)

/-! ## Invariants -/

/-- R20's invariants of the ring, with the ranges of R19's table and a legal configuration (R9). -/
abbrev RingInv (s : State) : Prop :=
  s.cfg.Legal ∧ s.rd < s.cfg.rxCapacity ∧ s.wr < s.cfg.rxCapacity ∧ s.fill ≤ s.cfg.rxCapacity ∧
    s.wr = (s.rd + s.fill) % s.cfg.rxCapacity ∧ s.fill ≤ s.peak ∧ s.peak ≤ s.cfg.rxCapacity

/-- Every storage keeps the canonical form and its range, and PKT_LEN ≤ 512 (R19, R20). -/
abbrev StorageInv (s : State) : Prop :=
  s.rxbuf.wf ∧ s.rxbuf.Below s.cfg.rxCapacity ∧ s.pktPayload.wf ∧ s.pktPayload.Below 512 ∧
    s.txPayload.wf ∧ s.txPayload.Below 512 ∧ s.pktLen.toNat ≤ 512

/-- Every live byte of the ring and every byte of the last packet has been written since reset, so no rule that reads
one can see an unspecified byte (R24, R38, R71). -/
abbrev WrittenInv (s : State) : Prop :=
  (∀ i, i < s.fill → (Memory.cellAt s.rxbuf ((s.rd + i) % s.cfg.rxCapacity)).isSome) ∧
    ∀ i, i < s.pktLen.toNat → (Memory.cellAt s.pktPayload i).isSome

/-- The invariant every step keeps. -/
abbrev Inv (s : State) : Prop := RingInv s ∧ StorageInv s ∧ WrittenInv s

/-! ## Frames: what a step from `s` to `t` leaves unchanged -/

/-- The ring: every byte of RXBUF, both cursors, FILL and PEAK. -/
abbrev KeepsRing (s t : State) : Prop :=
  (∀ j, slot t j = slot s j) ∧ t.rd = s.rd ∧ t.wr = s.wr ∧ t.fill = s.fill ∧ t.peak = s.peak

/-- OVF_COUNT and OVF. -/
abbrev KeepsOverflow (s t : State) : Prop := t.ovfCount = s.ovfCount ∧ t.ovf = s.ovf

/-- RX_COUNT, ERR_COUNT and CSUM_ERR_COUNT. -/
abbrev KeepsReceiveCounts (s t : State) : Prop :=
  t.rxCount = s.rxCount ∧ t.errCount = s.errCount ∧ t.csumErrCount = s.csumErrCount

/-- PKT_HDR and every byte of PKT_PAYLOAD. -/
abbrev KeepsPacket (s t : State) : Prop :=
  t.pktCode = s.pktCode ∧ t.pktSeq = s.pktSeq ∧ t.pktLen = s.pktLen ∧ ∀ i, pktByte t i = pktByte s i

/-- TX_HDR and every byte of TX_PAYLOAD. -/
abbrev KeepsTxOperands (s t : State) : Prop :=
  t.txCode = s.txCode ∧ t.txSeq = s.txSeq ∧ t.txLen = s.txLen ∧ ∀ i, txByte t i = txByte s i

/-- TX_COUNT and TXOUT. -/
abbrev KeepsTxOutput (s t : State) : Prop := t.txCount = s.txCount ∧ t.txout = s.txout

/-- RESULT and CAUSE. -/
abbrev KeepsOutcome (s t : State) : Prop := t.result = s.result ∧ t.cause = s.cause

/-- The configuration and the model's own fields, which no command changes. -/
abbrev KeepsSurroundings (s t : State) : Prop :=
  t.cfg = s.cfg ∧ t.resets = s.resets ∧ t.inputs = s.inputs ∧ t.responses = s.responses

/-- Everything but RESULT, CAUSE, the ring and OVF, OVF_COUNT: the frame common to the receive buffer's commands. -/
abbrev KeepsBesideRing (s t : State) : Prop :=
  t.ill = s.ill ∧ KeepsReceiveCounts s t ∧ KeepsPacket s t ∧ KeepsTxOperands s t ∧ KeepsTxOutput s t ∧
    KeepsSurroundings s t

/-- Everything but RESULT and CAUSE. -/
abbrev KeepsAllButOutcome (s t : State) : Prop :=
  KeepsRing s t ∧ KeepsOverflow s t ∧ KeepsBesideRing s t

/-- The command ended with cause `c` and result `r` (R112). -/
abbrev Ends (c : Cause) (r : Word) (t : State) : Prop := t.cause = c ∧ t.result = r

/-! ## What a host can tell apart -/

/-- Two states a host program cannot tell apart: they differ at most in RD, WR and the dead bytes of RXBUF (R24). -/
abbrev HostEquivalent (s t : State) : Prop :=
  live t = live s ∧ t.fill = s.fill ∧ t.peak = s.peak ∧ KeepsOverflow s t ∧ KeepsOutcome s t ∧ KeepsBesideRing s t

/-! ## The wire -/

/-- The XOR of a list of bytes. -/
def xorAll (bs : List Byte) : Byte := bs.foldr (fun b c => b ^^^ c) 0

/-- A frame of R63: `AA | code | length (2, LE) | sequence | payload | checksum | 55`. -/
def wireFrame (code seq : Byte) (payload : List Byte) : List Byte :=
  let lo := BitVec.ofNat 8 (payload.length % 256)
  let hi := BitVec.ofNat 8 (payload.length / 256)
  [0xAA, code, lo, hi, seq] ++ payload ++ [xorAll ([code, lo, hi, seq] ++ payload), 0x55]

/-- Bytes a scan discards: none of them is the start sentinel (R14). -/
def isNoise (bs : List Byte) : Bool := bs.all (fun b => b != 0xAA)

/-- What one parse attempt over a byte list gives: its outcome, how many bytes it drops, how many false starts step 4
rejected, and the packet. -/
structure WireParse where
  outcome : ParseOutcome
  dropped : Nat
  falseStarts : Nat
  packet : Option Packet
  deriving DecidableEq, Repr

/-- Steps 5 to 8 on bytes that begin with a start byte and a whole header declaring length `L` ≤ 512 (R94 to R97),
`noise` bytes having been dropped before them. -/
def wireFrameAt (noise L : Nat) (bytes : List Byte) : WireParse :=
  if bytes.length < 7 + L then ⟨.npIncomplete, noise, 0, none⟩
  else if xorAll ((bytes.drop 1).take (4 + L)) ≠ bytes.getD (5 + L) 0 then ⟨.npBadCsum, noise + 1, 0, none⟩
  else if bytes.getD (6 + L) 0 ≠ 0x55 then ⟨.npBadEnd, noise + 1, 0, none⟩
  else ⟨.packet, noise + (7 + L), 0,
    some ⟨bytes.getD 1 0, bytes.getD 4 0, BitVec.ofNat 16 L, (bytes.drop 5).take L⟩⟩

/-- One parse attempt over a byte list with scan window `W` (R90 to R97); the first argument bounds the retries of
step 4 and is enough when it exceeds the list's length. -/
def wireParse (W : Nat) : Nat → List Byte → WireParse
  | 0, _ => ⟨.npShort, 0, 0, none⟩
  | fuel + 1, bytes =>
    if bytes.length < 5 then ⟨.npShort, 0, 0, none⟩
    else
      let noise := ((bytes.take W).takeWhile (fun b => b != 0xAA)).length
      let rest := bytes.drop noise
      if noise = min W bytes.length then ⟨.npNoStart, noise, 0, none⟩
      else if rest.length < 5 then ⟨.npShort, noise, 0, none⟩
      else
        let L := (rest.getD 2 0).toNat + 256 * (rest.getD 3 0).toNat
        if L > 512 then
          let r := wireParse W fuel (rest.drop 1)
          ⟨r.outcome, noise + 1 + r.dropped, r.falseStarts + 1, r.packet⟩
        else wireFrameAt noise L rest

/-- The parse attempt of the bytes `bs` with scan window `W`. -/
def parseBytes (W : Nat) (bs : List Byte) : WireParse := wireParse W (bs.length + 1) bs

/-! ## Histories and runs -/

/-- A use of the ring's primitives (R72, R73). -/
inductive RingUse where
  | store (b : Byte)
  | drop (k : Nat)
  deriving DecidableEq, Repr

/-- Perform a use of the ring. -/
def RingUse.apply (s : State) : RingUse → State
  | .store b => storeByte b s
  | .drop k => dropOldest k s

/-- Every use of a history meets its primitive's precondition, in turn: `FILL < CAP` to store, `k ≤ FILL` to drop
(R72, R73). -/
def RingUse.allowed : List RingUse → State → Prop
  | [], _ => True
  | .store b :: us, s => s.fill < s.cfg.rxCapacity ∧ RingUse.allowed us (RingUse.apply s (.store b))
  | .drop k :: us, s => k ≤ s.fill ∧ RingUse.allowed us (RingUse.apply s (.drop k))

/-- The bytes a history stores, in order. -/
def RingUse.stored (us : List RingUse) : List Byte :=
  us.filterMap (fun u => match u with | .store b => some b | .drop _ => none)

/-- How many bytes a history drops. -/
def RingUse.dropped (us : List RingUse) : Nat :=
  (us.map (fun u => match u with | .store _ => 0 | .drop k => k)).sum

/-- The run of a list of steps of the surroundings from a state, one after the other (R137). -/
def runEvents (es : List Event) (s : State) : Host.Outcome State Fault Refusal :=
  Host.Core.run Sys2Proof.core es.length { s with inputs := es }

/-- The step issues a command word that decodes to `i` (R26, R60). -/
def Event.Issues (e : Event) (i : Instr) : Prop := ∃ w, e = commandWrite w ∧ decode w = .ok i

/-- Whether a step is an arrival on the RX port. -/
def Event.isArrival : Event → Bool
  | .rx _ => true
  | .read _ _ => false
  | .write _ _ _ => false
  | .reset => false

end Sys2Proof.Machine
end

