-- ==== Sys2Proof/Certificates/Slice0/Obligations.lean ====
section
/-! DEFINITION. The statements for the provers. Each docstring names the rule of spec/ it formalises. -/

open Sys2Proof Sys2Proof.Machine

/-! ## Encoding -/

/-- Words written out from R59's patterns and R68's examples decode to the commands they stand for. -/
def Obligations.SpecWordsDecodeToTheirCommands : Prop :=
  decode 0x00410001 = .ok (.push 0x41) ∧ decode 0x00000002 = .ok .pop ∧ decode 0x00000003 = .ok .peek ∧
  decode 0x00030004 = .ok (.peekAt 3) ∧ decode 0x00070005 = .ok (.discard 7) ∧ decode 0x00AA000A = .ok (.rxByte 0xAA) ∧
  decode 0x00000010 = .ok .parse ∧ decode 0x00000020 = .ok .checksum ∧ decode 0x00000021 = .ok .encode

/-- Decoding the word of any command, with any operand, gives that command back: no bit of an operand is dropped
(R57, R59). -/
def Obligations.DecodeOfEncodeIsTheCommand : Prop :=
  ∀ i : Instr, decode (encode i) = .ok i

/-- A word that decodes is the word of the command it decodes to: each command has exactly one word (R59). -/
def Obligations.EncodeOfDecodeIsTheWord : Prop :=
  ∀ (w : Word) (i : Instr), decode w = .ok i → encode i = w

/-- R59, R60: at most one row of the match/mask table matches any word, and a word decodes to a command exactly when
some row has `(w & mask) = match`, the command then being that row's with the operand of R57. -/
def Obligations.WordSelectsAtMostOneRow : Prop :=
  ∀ w : Word, (opcodeRows.filter (fun r => (w &&& r.mask) == r.pattern)).length ≤ 1 ∧
    ∀ i : Instr, decode w = .ok i ↔ ∃ r ∈ opcodeRows, w &&& r.mask = r.pattern ∧ r.build w = i

/-- R61: the illegal words are exactly those of its five bullets, and writing one to CMD sets ILL, CAUSE = ILLEGAL and
RESULT = 0 and does nothing else (the write itself is answered OK). -/
def Obligations.IllegalWordsAreExactlyThoseListed : Prop :=
  ∀ w : Word,
    let op := (w.extractLsb' 0 8).toNat
    let rsv := w.extractLsb' 8 8
    let arg := w.extractLsb' 16 16
    ((¬ ∃ i, decode w = .ok i) ↔
      (op = 0x00 ∨ (0x0B ≤ op ∧ op ≤ 0x0F) ∨ (0x11 ≤ op ∧ op ≤ 0x1F) ∨ (0x22 ≤ op ∧ op ≤ 0xFF) ∨
        rsv ≠ 0 ∨
        (op ∈ [0x02, 0x03, 0x06, 0x07, 0x08, 0x09, 0x10, 0x20, 0x21] ∧ arg ≠ 0) ∨
        (op ∈ [0x01, 0x0A] ∧ arg.extractLsb' 8 8 ≠ 0))) ∧
    ∀ (s : State) (rest : List Event), (¬ ∃ i, decode w = .ok i) → s.inputs = commandWrite w :: rest →
      step s = .next { s with
        inputs := rest, responses := s.responses ++ [.ok], ill := true, cause := .illegal, result := 0 }

/-- R68: the three worked examples as text; a line that gives a mnemonic the operand it takes, in range, assembles
to a word that decodes to that command; an operand not taken, missing or out of range is an assembly error. -/
def Obligations.AssemblerAcceptsExactlyItsOperands : Prop :=
  assembleText "PUSH 0x41".toList = some 0x00410001 ∧ assembleText "PEEKAT 3".toList = some 0x00030004 ∧
  assembleText "DISCARD 7".toList = some 0x00070005 ∧
  ∀ (m : Mnemonic) (n : Nat),
    (m.operandKind = .none → (assemble ⟨m, none⟩).map decode = some (.ok (m.toInstr 0)) ∧ assemble ⟨m, some n⟩ = none) ∧
    (m.operandKind = .byte → assemble ⟨m, none⟩ = none ∧
      (n ≤ 0xFF → (assemble ⟨m, some n⟩).map decode = some (.ok (m.toInstr n))) ∧
      (0xFF < n → assemble ⟨m, some n⟩ = none)) ∧
    (m.operandKind = .count → assemble ⟨m, none⟩ = none ∧
      (n ≤ 0xFFFF → (assemble ⟨m, some n⟩).map decode = some (.ok (m.toInstr n))) ∧
      (0xFFFF < n → assemble ⟨m, some n⟩ = none))

/-! ## Reset and invariants -/

/-- R38, R126: a reset step sets every piece of state to its reset value and leaves the configuration, so that STATUS
reads 0x00000F02. -/
def Obligations.ResetStepSetsEveryResetValue : Prop :=
  ∀ (s : State) (rest : List Event), s.cfg.Legal → s.inputs = .reset :: rest →
    ∃ t, step s = .next t ∧ t.rd = 0 ∧ t.wr = 0 ∧ t.fill = 0 ∧ t.peak = 0 ∧
      t.ovfCount = 0 ∧ t.txCount = 0 ∧ t.rxCount = 0 ∧ t.errCount = 0 ∧ t.csumErrCount = 0 ∧
      t.ovf = false ∧ t.ill = false ∧ t.result = 0 ∧ t.cause.code = 0xF ∧
      t.pktCode = 0 ∧ t.pktSeq = 0 ∧ t.pktLen = 0 ∧ t.txCode = 0 ∧ t.txSeq = 0 ∧ t.txLen = 0 ∧ t.txout = [] ∧
      statusWord t = 0x00000F02 ∧ t.cfg = s.cfg

/-- The state after reset meets the invariant, whatever the legal configuration; so does State.reset. -/
def Obligations.ResetStateMeetsTheInvariant : Prop :=
  (∀ c : Config, c.Legal → Inv (State.resetWith c)) ∧ Inv State.reset

/-- R20, with the ranges of R19: the invariant holds after every step that starts from it. -/
def Obligations.EveryStepKeepsTheInvariant : Prop :=
  ∀ s t : State, Inv s → step s = .next t → Inv t

/-- R116: every command is defined in every state, every step of the surroundings is taken in every state, and reset
is always possible. -/
def Obligations.EveryCommandAndStepIsAnswered : Prop :=
  (∀ (i : Instr) (s : State), ∃ t, exec i s = .next t) ∧
  (∀ s : State, ∃ t, step s = .next t) ∧
  (∀ (s : State) (rest : List Event), s.inputs = .reset :: rest →
    ∃ t, step s = .next t ∧ t.fill = 0 ∧ t.cause = .noCmd)

/-! ## The bus -/

/-- R60: when the next step of the surroundings writes a word to CMD that decodes to `i`, the step is `i`'s, once the
write has left the pending steps and been answered OK. -/
def Obligations.StepRunsTheDecodedCommand : Prop :=
  ∀ (s : State) (w : Word) (i : Instr) (rest : List Event),
    s.inputs = .write 0x000 .word w :: rest → decode w = .ok i →
      step s = exec i { s with inputs := rest, responses := s.responses ++ [.ok] }

/-- R41: which accesses are legal; and an aligned payload access never crosses its window's end. -/
def Obligations.LegalAccessesAreExactlyThoseListed : Prop :=
  ∀ (a : Offset) (n : AccessWidth),
    (legalAccess a n = true ↔
      (a.toNat ≤ 0x037 ∧ n.bytes = 4 ∧ a.toNat % 4 = 0) ∨
      (((0x400 ≤ a.toNat ∧ a.toNat ≤ 0x5FF) ∨ (0x600 ≤ a.toNat ∧ a.toNat ≤ 0x7FF)) ∧ a.toNat % n.bytes = 0)) ∧
    (legalAccess a n = true →
      (0x400 ≤ a.toNat → a.toNat ≤ 0x5FF → a.toNat + n.bytes ≤ 0x600) ∧
      (0x600 ≤ a.toNat → a.toNat + n.bytes ≤ 0x800))

/-- R42: an illegal access, read or write, ends with BUS_ERROR and changes no state of the block. -/
def Obligations.IllegalAccessOnlyAnswersBusError : Prop :=
  ∀ (s : State) (a : Offset) (n : AccessWidth) (v : Word) (rest : List Event), legalAccess a n = false →
    s.inputs = .read a n :: rest ∨ s.inputs = .write a n v :: rest →
      step s = .next { s with inputs := rest, responses := s.responses ++ [.busError a] }

/-- R45: a legal read answers the register (CMD reads 0) or the bytes of the window, `Σ byte << 8k`, and changes no
state. -/
def Obligations.LegalReadAnswersAndChangesNothing : Prop :=
  ∀ (s : State) (a : Offset) (n : AccessWidth) (rest : List Event), legalAccess a n = true →
    s.inputs = .read a n :: rest →
    ∃ v : Word, step s = .next { s with inputs := rest, responses := s.responses ++ [.data v] } ∧
      (a = 0x000 → v = 0) ∧
      (a.toNat ≤ 0x037 → v = regRead a s) ∧
      (0x400 ≤ a.toNat → a.toNat ≤ 0x5FF →
        v.toNat = ((List.range n.bytes).map (fun k => (pktByte s (a.toNat - 0x400 + k)).toNat * 2 ^ (8 * k))).sum) ∧
      (0x600 ≤ a.toNat →
        v.toNat = ((List.range n.bytes).map (fun k => (txByte s (a.toNat - 0x600 + k)).toNat * 2 ^ (8 * k))).sum)

/-- The register map (R25 to R35): what each offset reads, field by field where it has fields, in every state that
meets the ring's invariant. -/
def Obligations.RegistersReadTheirState : Prop :=
  ∀ s : State, RingInv s →
    regRead 0x000 s = 0 ∧ regRead 0x004 s = s.result ∧ regRead 0x008 s = statusWord s ∧
    (regRead 0x00C s).toNat = s.fill ∧ (regRead 0x010 s).toNat = s.cfg.rxCapacity ∧
    (regRead 0x014 s).toNat = s.peak ∧ regRead 0x018 s = s.ovfCount ∧ regRead 0x01C s = s.txCount ∧
    regRead 0x020 s = s.rxCount ∧ regRead 0x024 s = s.errCount ∧ regRead 0x028 s = s.csumErrCount ∧
    (regRead 0x02C s).extractLsb' 0 8 = s.pktCode ∧ (regRead 0x02C s).extractLsb' 8 8 = s.pktSeq ∧
    (regRead 0x02C s).extractLsb' 16 16 = s.pktLen ∧
    (regRead 0x030 s).extractLsb' 0 8 = s.txCode ∧ (regRead 0x030 s).extractLsb' 8 8 = s.txSeq ∧
    (regRead 0x030 s).extractLsb' 16 16 = s.txLen ∧
    ((regRead 0x034 s).extractLsb' 0 16).toNat = s.cfg.scanWindow ∧
    ((regRead 0x034 s).extractLsb' 16 16).toNat = s.cfg.ovfChunk

/-- R46: what a legal write does, location by location; a write to a location that is not writable does nothing. -/
def Obligations.LegalWriteTouchesOnlyItsLocation : Prop :=
  ∀ (s : State) (a : Offset) (n : AccessWidth) (v : Word) (rest : List Event), legalAccess a n = true →
    s.inputs = .write a n v :: rest →
    let s₀ : State := { s with inputs := rest, responses := s.responses ++ [.ok] }
    (a = 0x000 → step s = execute v s₀) ∧
    (a = 0x008 → step s = .next { s₀ with
      ovf := if v.getLsbD 3 then false else s.ovf, ill := if v.getLsbD 4 then false else s.ill }) ∧
    (a = 0x030 → step s = .next { s₀ with
      txCode := v.extractLsb' 0 8, txSeq := v.extractLsb' 8 8, txLen := v.extractLsb' 16 16 }) ∧
    (0x600 ≤ a.toNat → ∃ t, step s = .next t ∧
      (∀ k, k < n.bytes → txByte t (a.toNat - 0x600 + k) = v.extractLsb' (8 * k) 8) ∧
      (∀ i, i < a.toNat - 0x600 ∨ a.toNat - 0x600 + n.bytes ≤ i → txByte t i = txByte s i) ∧
      t = { s₀ with txPayload := t.txPayload }) ∧
    (a ≠ 0x000 → a ≠ 0x008 → a ≠ 0x030 → a.toNat < 0x600 → step s = .next s₀)

/-- R44: a 32-bit write at TX_PAYLOAD offset 4k sets its four bytes, a 16-bit write at 2k its two, low byte first;
a later 8-bit read at an offset gives the byte there. -/
def Obligations.MixedWidthAccessesSeeOneByteArray : Prop :=
  ∀ (s : State) (v : Word) (rest : List Event),
    (∀ k, k < 128 → s.inputs = .write (BitVec.ofNat 12 (0x600 + 4 * k)) .word v :: rest →
      ∃ t, step s = .next t ∧ ∀ j, j < 4 →
        txByte t (4 * k + j) = v.extractLsb' (8 * j) 8 ∧
        memRead (BitVec.ofNat 12 (0x600 + 4 * k + j)) .byte t = (v.extractLsb' (8 * j) 8).setWidth 32) ∧
    (∀ k, k < 256 → s.inputs = .write (BitVec.ofNat 12 (0x600 + 2 * k)) .half v :: rest →
      ∃ t, step s = .next t ∧ ∀ j, j < 2 →
        txByte t (2 * k + j) = v.extractLsb' (8 * j) 8 ∧
        memRead (BitVec.ofNat 12 (0x600 + 2 * k + j)) .byte t = (v.extractLsb' (8 * j) 8).setWidth 32)

/-- R34: all 32 bits of TX_HDR are written and read back exactly; the value is not checked then, but ENCODE and
CHECKSUM reject a length over 512 when they run. -/
def Obligations.TxHdrReadsBackAsWritten : Prop :=
  ∀ (s : State) (v : Word) (rest : List Event), s.inputs = .write 0x030 .word v :: rest →
    ∃ t, step s = .next t ∧ memRead 0x030 .word t = v ∧
      t.txCode = v.extractLsb' 0 8 ∧ t.txSeq = v.extractLsb' 8 8 ∧ t.txLen = v.extractLsb' 16 16 ∧
      (512 < (v.extractLsb' 16 16).toNat →
        (∃ u, exec .encode t = .next u ∧ Ends .tooLong 0 u) ∧ (∃ u, exec .checksum t = .next u ∧ Ends .tooLong 0 u))

/-- R39: the block's offset of a platform address in its window is the address less BASE. -/
def Obligations.WindowOffsetIsAddressLessBase : Prop :=
  ∀ (c : Config) (a : Offset), c.Legal → busOffset (busAddress c a) = a

/-! ## STATUS and the outcome codes -/

/-- R28: STATUS bit by bit, its reserved bits reading 0, and the codes 0x7, 0xD and 0xE never read (I10). -/
def Obligations.StatusReadsItsFields : Prop :=
  ∀ s : State,
    ((statusWord s).getLsbD 0 = true ↔ s.cause = .ok) ∧
    ((statusWord s).getLsbD 1 = true ↔ s.fill = 0) ∧
    ((statusWord s).getLsbD 2 = true ↔ s.fill = s.cfg.rxCapacity) ∧
    (statusWord s).getLsbD 3 = s.ovf ∧ (statusWord s).getLsbD 4 = s.ill ∧
    (statusWord s).extractLsb' 5 3 = 0 ∧ (statusWord s).extractLsb' 8 4 = s.cause.code ∧
    (statusWord s).extractLsb' 12 20 = 0 ∧
    (statusWord s).extractLsb' 8 4 ∉ [0x7#4, 0xD#4, 0xE#4]

/-- R111: the codes' numbers, and for each code which commands set it, when, and the RESULT it comes with. -/
def Obligations.CausesAreSetAsTabled : Prop :=
  ([Cause.ok, .empty, .full, .range, .tooLong, .illegal, .evicted, .npShort, .npNoStart, .npIncomplete, .npBadCsum,
    .npBadEnd, .noCmd].map Cause.code = [0x0, 0x1, 0x2, 0x3, 0x4, 0x5, 0x6, 0x8, 0x9, 0xA, 0xB, 0xC, 0xF]) ∧
  ∀ (w : Word) (s t : State), RingInv s → execute w s = .next t →
    match t.cause with
    | .ok => ∃ i, decode w = .ok i
    | .empty => (decode w = .ok .pop ∨ decode w = .ok .peek) ∧ s.fill = 0 ∧ t.result = 0
    | .full => (∃ b, decode w = .ok (.push b)) ∧ s.fill = s.cfg.rxCapacity ∧ t.result = 0
    | .range => (∃ n, decode w = .ok (.peekAt n) ∧ s.fill ≤ n.toNat) ∧ t.result = 0
    | .tooLong => (decode w = .ok .encode ∨ decode w = .ok .checksum) ∧ 512 < s.txLen.toNat ∧ t.result = 0
    | .illegal => (¬ ∃ i, decode w = .ok i) ∧ t.result = 0
    | .evicted => (∃ b, decode w = .ok (.rxByte b)) ∧ s.fill = s.cfg.rxCapacity ∧ t.result.toNat = s.cfg.ovfChunk
    | .npShort | .npNoStart | .npIncomplete | .npBadCsum | .npBadEnd =>
      decode w = .ok .parse ∧ t.result.toNat = s.fill - t.fill
    | .noCmd => False

/-- R112: `finish` writes CAUSE and RESULT and nothing else, and a command that ends with a failure cause (0x1 to 0x5)
changes nothing but CAUSE and RESULT, which is 0, except OVF_COUNT and OVF for FULL and ILL for ILLEGAL. -/
def Obligations.FailingCommandsChangeOnlyTheOutcome : Prop :=
  (∀ (c : Cause) (r : Word) (s : State), finish c r s = { s with cause := c, result := r }) ∧
  ∀ (w : Word) (s t : State), execute w s = .next t → 1 ≤ t.cause.code.toNat → t.cause.code.toNat ≤ 5 →
    t.result = 0 ∧ KeepsRing s t ∧ KeepsReceiveCounts s t ∧ KeepsPacket s t ∧ KeepsTxOperands s t ∧
      KeepsTxOutput s t ∧ KeepsSurroundings s t ∧
      (t.cause ≠ .full → KeepsOverflow s t) ∧ (t.cause ≠ .illegal → t.ill = s.ill)

/-! ## Receive buffer commands -/

/-- R77 (with R72, R74): PUSH into a full ring is rejected, stores nothing, evicts nothing and counts one overflow;
otherwise it appends its byte. -/
def Obligations.PushAppendsOrIsRejected : Prop :=
  ∀ (b : Byte) (s : State), RingInv s →
    ∃ t, exec (.push b) s = .next t ∧ KeepsBesideRing s t ∧
      (s.fill = s.cfg.rxCapacity → Ends .full 0 t ∧ KeepsRing s t ∧ t.ovfCount = s.ovfCount + 1 ∧ t.ovf = true) ∧
      (s.fill < s.cfg.rxCapacity → Ends .ok 1 t ∧ live t = live s ++ [b] ∧ t.fill = s.fill + 1 ∧
        t.peak = max s.peak (s.fill + 1) ∧ t.rd = s.rd ∧ t.wr = (s.wr + 1) % s.cfg.rxCapacity ∧
        (∀ j, j ≠ s.wr → slot t j = slot s j) ∧ KeepsOverflow s t)

/-- R78: POP removes and returns the oldest byte; on an empty ring it changes nothing and reports EMPTY. -/
def Obligations.PopRemovesTheOldestByte : Prop :=
  ∀ s : State, RingInv s →
    ∃ t, exec .pop s = .next t ∧
      (s.fill = 0 → Ends .empty 0 t ∧ KeepsAllButOutcome s t) ∧
      (0 < s.fill → ∃ b, live s = b :: live t ∧ Ends .ok (b.setWidth 32) t ∧ t.fill = s.fill - 1 ∧
        t.rd = (if s.rd = s.cfg.rxCapacity - 1 then 0 else s.rd + 1) ∧ t.wr = s.wr ∧ t.peak = s.peak ∧
        (∀ j, slot t j = slot s j) ∧ KeepsOverflow s t ∧ KeepsBesideRing s t)

/-- R79: PEEK returns the oldest byte and changes nothing, so a second PEEK returns it again; EMPTY on an empty
ring. -/
def Obligations.PeekReturnsTheOldestByteAndKeepsIt : Prop :=
  ∀ s : State,
    ∃ t, exec .peek s = .next t ∧ KeepsAllButOutcome s t ∧
      (s.fill = 0 → Ends .empty 0 t) ∧
      (∀ b bs, live s = b :: bs → Ends .ok (b.setWidth 32) t ∧ exec .peek t = .next t)

/-- R80: PEEKAT n returns the byte at offset n from the oldest; RANGE for every n ≥ FILL, so also on an empty ring. -/
def Obligations.PeekAtReturnsTheByteAtItsOffset : Prop :=
  ∀ (n : Half) (s : State),
    ∃ t, exec (.peekAt n) s = .next t ∧ KeepsAllButOutcome s t ∧
      (s.fill ≤ n.toNat → Ends .range 0 t) ∧
      (∀ b, (live s)[n.toNat]? = some b → Ends .ok (b.setWidth 32) t)

/-- R81: DISCARD n removes the min(n, FILL) oldest bytes and returns how many; PEAK is not changed. -/
def Obligations.DiscardRemovesUpToItsCount : Prop :=
  ∀ (n : Half) (s : State), RingInv s →
    ∃ t, exec (.discard n) s = .next t ∧ t.cause = .ok ∧ t.result.toNat = min n.toNat s.fill ∧
      live t = (live s).drop n.toNat ∧ t.fill = s.fill - min n.toNat s.fill ∧ t.wr = s.wr ∧ t.peak = s.peak ∧
      t.rd = (s.rd + min n.toNat s.fill) % s.cfg.rxCapacity ∧
      (∀ j, slot t j = slot s j) ∧ KeepsOverflow s t ∧ KeepsBesideRing s t

/-- R82, R83, and CAPACITY of R84: the three reports, each always OK and changing nothing else; AVAILABLE is what the
FILL register reads and CAPACITY what the CAPACITY register reads; FREE is 0 exactly when STATUS.FULL = 1, and the
capacity exactly when STATUS.EMPTY = 1. -/
def Obligations.ReportCommandsReturnTheFillAndSpace : Prop :=
  ∀ s : State, RingInv s →
    (∃ t, exec .available s = .next t ∧ KeepsAllButOutcome s t ∧ t.cause = .ok ∧ t.result.toNat = s.fill ∧
      t.result = regRead 0x00C s ∧ t.result.toNat ≤ s.cfg.rxCapacity) ∧
    (∃ t, exec .free s = .next t ∧ KeepsAllButOutcome s t ∧ t.cause = .ok ∧
      t.result.toNat = s.cfg.rxCapacity - s.fill ∧
      (t.result = 0 ↔ (statusWord s).getLsbD 2 = true) ∧
      (t.result.toNat = s.cfg.rxCapacity ↔ (statusWord s).getLsbD 1 = true)) ∧
    (∃ t, exec .capacity s = .next t ∧ KeepsAllButOutcome s t ∧ t.cause = .ok ∧
      t.result.toNat = s.cfg.rxCapacity ∧ t.result = regRead 0x010 s)

/-- R85: CLEAR empties the ring, returns the old FILL, and keeps PEAK, the flags and every counter. -/
def Obligations.ClearEmptiesTheRingAndKeepsDiagnostics : Prop :=
  ∀ s : State, RingInv s →
    ∃ t, exec .clear s = .next t ∧ t.cause = .ok ∧ t.result.toNat = s.fill ∧ live t = [] ∧
      t.rd = 0 ∧ t.wr = 0 ∧ t.fill = 0 ∧ t.peak = s.peak ∧ (∀ j, slot t j = slot s j) ∧
      KeepsOverflow s t ∧ KeepsBesideRing s t

/-- R75, R76: a byte arriving on the RX port is always stored; on a full ring the OVF_CHUNK oldest bytes go first, and
one overflow is counted. RESULT and CAUSE are not written. -/
def Obligations.ArrivalIsStoredEvictingAChunkWhenFull : Prop :=
  ∀ (b : Byte) (s : State) (rest : List Event), RingInv s → s.inputs = .rx b :: rest →
    ∃ t, step s = .next t ∧ t.inputs = rest ∧ t.responses = s.responses ∧ KeepsOutcome s t ∧
      t.cfg = s.cfg ∧ t.resets = s.resets ∧ t.ill = s.ill ∧
      KeepsReceiveCounts s t ∧ KeepsPacket s t ∧ KeepsTxOperands s t ∧ KeepsTxOutput s t ∧
      (∀ j, j ≠ s.wr → slot t j = slot s j) ∧ t.wr = (s.wr + 1) % s.cfg.rxCapacity ∧
      (s.fill < s.cfg.rxCapacity → live t = live s ++ [b] ∧ t.fill = s.fill + 1 ∧ t.rd = s.rd ∧
        t.peak = max s.peak (s.fill + 1) ∧ KeepsOverflow s t) ∧
      (s.fill = s.cfg.rxCapacity → live t = (live s).drop s.cfg.ovfChunk ++ [b] ∧
        t.fill = s.cfg.rxCapacity - s.cfg.ovfChunk + 1 ∧ t.rd = (s.rd + s.cfg.ovfChunk) % s.cfg.rxCapacity ∧
        t.peak = s.peak ∧ t.ovfCount = s.ovfCount + 1 ∧ t.ovf = true)

/-- R86: RXBYTE b has exactly the effect of an RX port arrival of b and in addition writes RESULT, the evicted count,
and CAUSE, OK or EVICTED. -/
def Obligations.RxByteIsAnArrivalWithAnOutcome : Prop :=
  ∀ (b : Byte) (s : State), RingInv s →
    ∃ t u, exec (.rxByte b) s = .next t ∧ step { s with inputs := .rx b :: s.inputs } = .next u ∧
      t = { u with cause := t.cause, result := t.result } ∧
      (s.fill < s.cfg.rxCapacity → Ends .ok 0 t) ∧
      (s.fill = s.cfg.rxCapacity → t.cause = .evicted ∧ t.result.toNat = s.cfg.ovfChunk)

/-- R87 item 2: bytes leave the ring in the order they entered. Whatever the command, the live bytes after it are
those before it less some of the oldest, with at most one new byte, of a PUSH or RXBYTE, at the end. -/
def Obligations.BytesLeaveTheRingInOrder : Prop :=
  ∀ (i : Instr) (s t : State), RingInv s → exec i s = .next t →
    ∃ k, k ≤ s.fill ∧ (live t = (live s).drop k ∨
      ∃ b, (i = .push b ∨ i = .rxByte b) ∧ live t = (live s).drop k ++ [b])

/-- R87 items 3 and 4: a PUSH or RXBYTE on a ring with FILL = CAP adds exactly 1 to OVF_COUNT and sets OVF, and no
other command changes either. -/
def Obligations.OnlyRejectedPushesCountOverflow : Prop :=
  ∀ (i : Instr) (s t : State), exec i s = .next t →
    ((∃ b, i = .push b ∨ i = .rxByte b) → s.fill = s.cfg.rxCapacity →
      t.ovfCount = s.ovfCount + 1 ∧ t.ovf = true) ∧
    (¬ ((∃ b, i = .push b ∨ i = .rxByte b) ∧ s.fill = s.cfg.rxCapacity) → KeepsOverflow s t)

/-- R87 item 5: from an empty ring, after any history of stores and drops with no overflow, the live bytes are the
stored bytes after the first j, in order, where j bytes were dropped; whatever CAP and the starting RD are. -/
def Obligations.RingHistoryIsFirstInFirstOut : Prop :=
  ∀ (us : List RingUse) (s : State), RingInv s → s.fill = 0 → RingUse.allowed us s →
    live (us.foldl RingUse.apply s) = (RingUse.stored us).drop (RingUse.dropped us)

/-! ## Framer/parser -/

/-- R88 against the prose of R90 to R97: PARSE is the parse attempt over the live bytes as a plain list, in its
outcome, the bytes it removes (at most FILL, R98), the counters, the packet delivered, and its frame. -/
def Obligations.ParseAgreesWithTheByteListParser : Prop :=
  ∀ s : State, RingInv s →
    let r := parseBytes s.cfg.scanWindow (live s)
    ∃ t, exec .parse s = .next t ∧ Ends r.outcome.cause (BitVec.ofNat 32 r.dropped) t ∧
      r.dropped ≤ s.fill ∧ live t = (live s).drop r.dropped ∧ t.fill = s.fill - r.dropped ∧
      t.errCount = s.errCount +
        BitVec.ofNat 32 (r.falseStarts + if r.outcome = .npBadCsum ∨ r.outcome = .npBadEnd then 1 else 0) ∧
      t.csumErrCount = s.csumErrCount + (if r.outcome = .npBadCsum then 1 else 0) ∧
      t.rxCount = s.rxCount + (if r.outcome = .packet then 1 else 0) ∧
      (r.packet = none → KeepsPacket s t) ∧
      (∀ p, r.packet = some p →
        readPacket t = p ∧ ∀ i, p.len.toNat ≤ i → pktByte t i = pktByte s i) ∧
      (∀ j, slot t j = slot s j) ∧ t.wr = s.wr ∧ t.peak = s.peak ∧ KeepsOverflow s t ∧ t.ill = s.ill ∧
      KeepsTxOperands s t ∧ KeepsTxOutput s t ∧ KeepsSurroundings s t

/-- R90: with FILL < 5, PARSE changes nothing but RESULT (0) and CAUSE (NP_SHORT); noise is not scanned away. -/
def Obligations.ParseOfFewerThanFiveBytesOnlyReports : Prop :=
  ∀ s : State, s.fill < 5 → exec .parse s = .next { s with cause := .npShort, result := 0 }

/-- R91: a start byte at offset j < W costs exactly the j noise bytes before it; when none of the first W bytes is a
start byte exactly W are dropped; when the ring empties first all are; noise is counted in no counter; and a start
found with fewer than 5 bytes left is kept. -/
def Obligations.ScanDropsExactlyTheNoise : Prop :=
  ∀ s : State, RingInv s → 5 ≤ s.fill →
    (∀ noise rest, live s = noise ++ 0xAA :: rest → isNoise noise → noise.length < s.cfg.scanWindow →
      (∃ t u, exec .parse s = .next t ∧ exec .parse (dropOldest noise.length s) = .next u ∧
        t = { u with result := u.result + BitVec.ofNat 32 noise.length }) ∧
      (s.fill - noise.length < 5 → ∃ t, exec .parse s = .next t ∧ Ends .npShort (BitVec.ofNat 32 noise.length) t ∧
        live t = 0xAA :: rest ∧ KeepsReceiveCounts s t)) ∧
    (s.cfg.scanWindow ≤ s.fill → isNoise ((live s).take s.cfg.scanWindow) →
      ∃ t, exec .parse s = .next t ∧ Ends .npNoStart (BitVec.ofNat 32 s.cfg.scanWindow) t ∧
        live t = (live s).drop s.cfg.scanWindow ∧ KeepsReceiveCounts s t) ∧
    (s.fill ≤ s.cfg.scanWindow → isNoise (live s) →
      ∃ t, exec .parse s = .next t ∧ Ends .npNoStart (BitVec.ofNat 32 s.fill) t ∧ t.fill = 0 ∧
        KeepsReceiveCounts s t)

/-- R93: a start byte whose header declares a length over 512 is dropped alone, adds 1 to ERR_COUNT only, and the same
PARSE goes on from step 1; with five start bytes in the ring that leaves four, NP_SHORT. -/
def Obligations.OversizedLengthDropsTheFalseStartAndRetries : Prop :=
  ∀ s : State, RingInv s →
    (∀ code lo hi seq rest, live s = 0xAA :: code :: lo :: hi :: seq :: rest → 512 < lo.toNat + 256 * hi.toNat →
      ∃ t u, exec .parse s = .next t ∧
        exec .parse (dropOldest 1 { s with errCount := s.errCount + 1 }) = .next u ∧
        t = { u with result := u.result + 1 }) ∧
    (live s = [0xAA, 0xAA, 0xAA, 0xAA, 0xAA] → ∃ t, exec .parse s = .next t ∧ Ends .npShort 1 t ∧
      live t = [0xAA, 0xAA, 0xAA, 0xAA] ∧ t.errCount = s.errCount + 1 ∧ t.csumErrCount = s.csumErrCount)

/-- R94: a frame not yet wholly buffered stays in the ring from its start byte on, and RESULT is the noise before it;
so always when 7 + L exceeds the capacity (R131). -/
def Obligations.IncompleteFrameStaysBuffered : Prop :=
  ∀ (s : State) (noise rest : List Byte) (code lo hi seq : Byte), RingInv s →
    live s = noise ++ 0xAA :: code :: lo :: hi :: seq :: rest → isNoise noise → noise.length < s.cfg.scanWindow →
    lo.toNat + 256 * hi.toNat ≤ 512 →
    (s.fill - noise.length < 7 + (lo.toNat + 256 * hi.toNat) ∨ s.cfg.rxCapacity < 7 + (lo.toNat + 256 * hi.toNat)) →
    ∃ t, exec .parse s = .next t ∧ Ends .npIncomplete (BitVec.ofNat 32 noise.length) t ∧
      live t = 0xAA :: code :: lo :: hi :: seq :: rest ∧ KeepsReceiveCounts s t ∧ KeepsPacket s t

/-- R96: the checksum is checked first. A mismatch, whatever the end byte, counts in CSUM_ERR_COUNT and ERR_COUNT; a
bad end byte after a good checksum in ERR_COUNT only; either drops exactly the presumed start and ends PARSE. -/
def Obligations.CorruptFrameCostsOneByte : Prop :=
  ∀ (s : State) (noise payload rest : List Byte) (code lo hi seq ck last : Byte), RingInv s →
    live s = noise ++ ([0xAA, code, lo, hi, seq] ++ payload ++ [ck, last]) ++ rest →
    isNoise noise → noise.length < s.cfg.scanWindow →
    payload.length = lo.toNat + 256 * hi.toNat → payload.length ≤ 512 →
    (ck ≠ xorAll ([code, lo, hi, seq] ++ payload) →
      ∃ t, exec .parse s = .next t ∧ Ends .npBadCsum (BitVec.ofNat 32 (noise.length + 1)) t ∧
        live t = [code, lo, hi, seq] ++ payload ++ [ck, last] ++ rest ∧
        t.csumErrCount = s.csumErrCount + 1 ∧ t.errCount = s.errCount + 1 ∧ t.rxCount = s.rxCount ∧
        KeepsPacket s t) ∧
    (ck = xorAll ([code, lo, hi, seq] ++ payload) → last ≠ 0x55 →
      ∃ t, exec .parse s = .next t ∧ Ends .npBadEnd (BitVec.ofNat 32 (noise.length + 1)) t ∧
        live t = [code, lo, hi, seq] ++ payload ++ [ck, last] ++ rest ∧
        t.csumErrCount = s.csumErrCount ∧ t.errCount = s.errCount + 1 ∧ t.rxCount = s.rxCount ∧ KeepsPacket s t)

/-- R97 and the round trip of R101 item 1: a ring that holds the frame of any code, sequence and payload of at most 512
bytes, after fewer than SCAN_WINDOW noise bytes, gives that packet in one PARSE, and the bytes after the frame
stay. -/
def Obligations.WholeFrameIsDeliveredAndOnlyItIsDropped : Prop :=
  ∀ (s : State) (noise payload rest : List Byte) (code seq : Byte), RingInv s →
    live s = noise ++ wireFrame code seq payload ++ rest → isNoise noise → noise.length < s.cfg.scanWindow →
    payload.length ≤ 512 →
    ∃ t, exec .parse s = .next t ∧ Ends .ok (BitVec.ofNat 32 (noise.length + (7 + payload.length))) t ∧
      live t = rest ∧ t.rxCount = s.rxCount + 1 ∧ t.errCount = s.errCount ∧ t.csumErrCount = s.csumErrCount ∧
      readPacket t = ⟨code, seq, BitVec.ofNat 16 payload.length, payload⟩ ∧ t.pktLen.toNat = payload.length ∧
      ∀ i, payload.length ≤ i → pktByte t i = pktByte s i

/-- R101 item 2: a frame delivered to an empty ring in two chunks gives no packet after the first chunk (NP_SHORT when
it is shorter than 5 bytes, else NP_INCOMPLETE), with nothing removed and no counter changed, and its packet after the
second. -/
def Obligations.PartialDeliveryThenCompletion : Prop :=
  ∀ (s : State) (first second payload : List Byte) (code seq : Byte), RingInv s → s.fill = 0 →
    first ++ second = wireFrame code seq payload → first ≠ [] → second ≠ [] → payload.length ≤ 512 →
    7 + payload.length ≤ s.cfg.rxCapacity →
    ∃ t u, runEvents (first.map .rx ++ [commandStep .parse]) s = .next t ∧
      Ends (if first.length < 5 then .npShort else .npIncomplete) 0 t ∧ live t = first ∧ KeepsReceiveCounts s t ∧
      runEvents (second.map .rx ++ [commandStep .parse]) t = .next u ∧ u.cause = .ok ∧
      readPacket u = ⟨code, seq, BitVec.ofNat 16 payload.length, payload⟩

/-- R99, R70: SERVICE, a loop of bus steps (PARSE, then reads of STATUS and, on OK, of PKT_HDR and PKT_PAYLOAD). With
no arrival interleaved it exits, on a PARSE that gave no packet, after at most ⌊FILL/7⌋ + 1 PARSE commands. Under every
interleaving with arrivals it is the run of such a list of steps, the arrivals in order among them; it issues one PARSE
per packet and one more; a packet it appended is the one the PKT registers hold until it issues the next PARSE; and it
exits only when CAUSE is not OK. -/
def Obligations.ServiceEndsWithinItsBound : Prop :=
  ∀ s : State, RingInv s →
    (∃ sv t, service s = .next (sv, t) ∧ sv.phase = .done ∧ t.cause ≠ .ok ∧
      sv.parses ≤ s.fill / 7 + 1 ∧ sv.parses = sv.out.length + 1) ∧
    ∀ ts : List Turn, ∃ sv t, serviceRun ts Service.start s = .next (sv, t) ∧
      sv.parses = sv.out.length + (if sv.phase = .parse then 0 else 1) ∧
      (sv.phase = .done → t.cause ≠ .ok) ∧
      (∀ p, sv.phase = .parse → sv.out.getLast? = some p → p = readPacket t) ∧
      ∃ es, runEvents es s = .next { t with inputs := [] } ∧ es.filter Event.isArrival = (arrivals ts).map .rx ∧
        ∀ e ∈ es, e.isArrival = true ∨ e = commandStep .parse ∨ e = .read 0x008 .word ∨ e = .read 0x02C .word ∨
          ∃ i, i < 512 ∧ e = .read (BitVec.ofNat 12 (0x400 + i)) .byte

/-- R99: SERVICE delivers frames buffered one after the other as their packets, oldest first, and leaves a trailing
part of fewer than 5 bytes. Where they arrive while SERVICE runs, wherever the arrivals fall among its accesses, it has
at every moment (`later` still to arrive) appended the first of them in order, and the ring holds the rest but for
one packet it may still be reading (none being evicted: the bytes fit the ring). -/
def Obligations.ServiceDeliversBufferedFramesInOrder : Prop :=
  ∀ (s : State) (ps : List Packet) (tail : List Byte), RingInv s → tail.length < 5 →
    (∀ p ∈ ps, p.payload.length ≤ 512 ∧ p.len = BitVec.ofNat 16 p.payload.length) →
    (live s = (ps.map (fun p => wireFrame p.code p.seq p.payload)).flatten ++ tail →
      ∃ sv t, service s = .next (sv, t) ∧ sv.phase = .done ∧ sv.out = ps ∧ live t = tail) ∧
    ∀ (ts : List Turn) (later : List Byte),
      live s ++ arrivals ts ++ later = (ps.map (fun p => wireFrame p.code p.seq p.payload)).flatten ++ tail →
      s.fill + (arrivals ts).length ≤ s.cfg.rxCapacity →
      ∃ sv t k, serviceRun ts Service.start s = .next (sv, t) ∧ k ≤ ps.length ∧
        live t ++ later = ((ps.drop k).map (fun p => wireFrame p.code p.seq p.payload)).flatten ++ tail ∧
        sv.out = ps.take sv.out.length ∧ sv.out.length ≤ k ∧ k ≤ sv.out.length + 1 ∧
        (sv.phase = .parse ∨ sv.phase = .done → sv.out.length = k)

/-! ## Checksum and transmit encoder -/

/-- R104: the checksum does not depend on the order of the covered bytes. -/
def Obligations.ChecksumIgnoresTheOrderOfItsBytes : Prop :=
  ∀ (code lo hi seq code' lo' hi' seq' : Byte) (ps ps' : List Byte),
    (code :: lo :: hi :: seq :: ps).Perm (code' :: lo' :: hi' :: seq' :: ps') →
    csum code lo hi seq ps = csum code' lo' hi' seq' ps'

/-- R105: with per-byte error masks on the covered bytes, the check fails exactly when the XOR of all the masks is
nonzero; so an error confined to one covered byte is always detected, and an exchange of two payload bytes never. -/
def Obligations.ChecksumDetectsExactlyNonzeroMaskSums : Prop :=
  ∀ (code lo hi seq eCode eLo eHi eSeq : Byte) (ps es : List Byte), ps.length = es.length →
    (csum (code ^^^ eCode) (lo ^^^ eLo) (hi ^^^ eHi) (seq ^^^ eSeq) (List.zipWith (· ^^^ ·) ps es) ≠
        csum code lo hi seq ps ↔
      xorAll ([eCode, eLo, eHi, eSeq] ++ es) ≠ 0) ∧
    (∀ x y before between after, ps = before ++ x :: between ++ y :: after →
      csum code lo hi seq (before ++ y :: between ++ x :: after) = csum code lo hi seq ps)

/-- R106: CHECKSUM returns the checksum of the TX fields and the first TX_LEN payload bytes, or TOO_LONG, and changes
nothing else. -/
def Obligations.ChecksumCommandReturnsTheTxChecksum : Prop :=
  ∀ s : State, ∃ t, exec .checksum s = .next t ∧ KeepsAllButOutcome s t ∧
    (512 < s.txLen.toNat → Ends .tooLong 0 t) ∧
    (s.txLen.toNat ≤ 512 → Ends .ok
      ((xorAll ([s.txCode, s.txLen.extractLsb' 0 8, s.txLen.extractLsb' 8 8, s.txSeq] ++
        (List.range s.txLen.toNat).map (txByte s))).setWidth 32) t)

/-- R107: ENCODE appends exactly the frame of TX_HDR and the first TX_LEN payload bytes to TXOUT and counts it, or
rejects a length over 512 with nothing emitted and no counter; TX_HDR and TX_PAYLOAD are not changed. -/
def Obligations.EncodeEmitsTheFrameWholeOrNotAtAll : Prop :=
  ∀ s : State, ∃ t, exec .encode s = .next t ∧
    KeepsRing s t ∧ KeepsOverflow s t ∧ t.ill = s.ill ∧ KeepsReceiveCounts s t ∧ KeepsPacket s t ∧
    KeepsTxOperands s t ∧ KeepsSurroundings s t ∧
    (512 < s.txLen.toNat → Ends .tooLong 0 t ∧ KeepsTxOutput s t) ∧
    (s.txLen.toNat ≤ 512 → Ends .ok (BitVec.ofNat 32 (7 + s.txLen.toNat)) t ∧
      t.txout = s.txout ++ wireFrame s.txCode s.txSeq ((List.range s.txLen.toNat).map (txByte s)) ∧
      t.txCount = s.txCount + 1)

/-- R55 and R107's corner case: two ENCODEs in a row emit the same frame twice, contiguously, even where the payload
was never written (I1: an unwritten byte's value is fixed). -/
def Obligations.RepeatedEncodeEmitsTheSameFrame : Prop :=
  ∀ s : State, s.txLen.toNat ≤ 512 → ∃ frame t,
    frame.length = 7 + s.txLen.toNat ∧
    runEvents [commandStep .encode, commandStep .encode] s = .next t ∧ t.txout = s.txout ++ frame ++ frame ∧
    t.txCount = s.txCount + 2

/-- R109: the bytes ENCODE emits, fed back through the RX port into an empty ring that can hold them, are parsed to the
packet that was encoded. -/
def Obligations.EncodedBytesParseBackThroughTheRxPort : Prop :=
  ∀ s : State, RingInv s → s.fill = 0 → s.txLen.toNat ≤ 512 → 7 + s.txLen.toNat ≤ s.cfg.rxCapacity →
    ∃ t u, exec .encode s = .next t ∧
      runEvents ((t.txout.drop s.txout.length).map .rx ++ [commandStep .parse]) t = .next u ∧
      u.cause = .ok ∧ readPacket u = ⟨s.txCode, s.txSeq, s.txLen, (List.range s.txLen.toNat).map (txByte s)⟩

/-- R110: SEND emits the frame of its code, sequence and payload, its outcome being ENCODE's; an oversized payload ends
TOO_LONG with nothing emitted. -/
def Obligations.SendEmitsTheFrameOfItsOperands : Prop :=
  ∀ (s : State) (code seq : Byte) (payload : List Byte), payload.length ≤ 65535 →
    ∃ t, runEvents (sendSteps code seq payload) s = .next t ∧
      (payload.length ≤ 512 → Ends .ok (BitVec.ofNat 32 (7 + payload.length)) t ∧
        t.txout = s.txout ++ wireFrame code seq payload ∧ t.txCount = s.txCount + 1) ∧
      (512 < payload.length → Ends .tooLong 0 t ∧ KeepsTxOutput s t)

/-! ## Rules of the whole machine -/

/-- R37: the byte at offset 0x600 + i is TX_PAYLOAD[i], and no step but a host write to that window, or reset, changes
any of it: the block itself never writes it. -/
def Obligations.OnlyHostWritesChangeTxPayload : Prop :=
  (∀ (s : State) (i : Nat), i < 512 →
    memRead (BitVec.ofNat 12 (0x600 + i)) .byte s = (txByte s i).setWidth 32) ∧
  ∀ (s t : State) (e : Event) (rest : List Event), s.inputs = e :: rest → step s = .next t → e ≠ .reset →
    (∀ a n v, e = .write a n v → a.toNat < 0x600 ∨ 0x800 ≤ a.toNat) → ∀ i, txByte t i = txByte s i

/-- R32: no step but a PUSH, RXBYTE or arrival changes OVF_COUNT, none but ENCODE TX_COUNT, and none but PARSE
RX_COUNT, ERR_COUNT and CSUM_ERR_COUNT; except reset. -/
def Obligations.CountersChangeOnlyByTheirOwnRules : Prop :=
  ∀ (s t : State) (e : Event) (rest : List Event), s.inputs = e :: rest → step s = .next t → e ≠ .reset →
    (t.ovfCount ≠ s.ovfCount → ∃ b, e = .rx b ∨ e.Issues (.push b) ∨ e.Issues (.rxByte b)) ∧
    (t.txCount ≠ s.txCount → e.Issues .encode) ∧
    (¬ KeepsReceiveCounts s t → e.Issues .parse)

/-- R27, R76, R135: RESULT and CAUSE change only by a command word written to CMD, or reset. -/
def Obligations.OutcomeChangesOnlyByCommands : Prop :=
  ∀ (s t : State), step s = .next t → ¬ KeepsOutcome s t →
    ∃ rest, s.inputs = .reset :: rest ∨ ∃ w, s.inputs = commandWrite w :: rest

/-- R33, R132: PKT_HDR and PKT_PAYLOAD change only by a PARSE that returns a packet, or reset. -/
def Obligations.PacketIsKeptUntilTheNextPacket : Prop :=
  ∀ (s t : State) (e : Event) (rest : List Event), s.inputs = e :: rest → step s = .next t → e ≠ .reset →
    ¬ (e.Issues .parse ∧ t.cause = .ok) → KeepsPacket s t

/-- R28, R113: OVF and ILL stay set until the host writes 1 to STATUS bit 3, respectively bit 4, or reset. -/
def Obligations.StickyFlagsStaySetUntilCleared : Prop :=
  ∀ (s t : State) (e : Event) (rest : List Event), s.inputs = e :: rest → step s = .next t → e ≠ .reset →
    (s.ovf = true → t.ovf = false → ∃ v, e = .write 0x008 .word v ∧ v.getLsbD 3 = true) ∧
    (s.ill = true → t.ill = false → ∃ v, e = .write 0x008 .word v ∧ v.getLsbD 4 = true)

/-- R31: PEAK is the largest FILL reached since reset: every step but reset leaves the larger of PEAK and the new FILL
there, so CLEAR does not change it. -/
def Obligations.PeakIsTheHighWaterMark : Prop :=
  ∀ s t : State, RingInv s → step s = .next t → (∀ rest, s.inputs ≠ .reset :: rest) → t.peak = max s.peak t.fill

/-- R24: RD, WR and the dead bytes of RXBUF are hidden. Two states that differ only there, run on the same host accesses,
arrivals and resets, are answered alike and never come to differ in anything a host can see. -/
def Obligations.HiddenRingStateCannotBeObserved : Prop :=
  ∀ (n : Nat) (s t : State), Inv s → Inv t → HostEquivalent s t →
    ∃ s' t', Host.Core.run Sys2Proof.core n s = .next s' ∧ Host.Core.run Sys2Proof.core n t = .next t' ∧
      HostEquivalent s' t'

/-- R49, R137: whatever RX arrivals are interleaved with the host's accesses, the transmit side ends the same: TX_HDR,
TX_PAYLOAD, TX_COUNT and TXOUT are those of the same run without its arrivals. -/
def Obligations.ArrivalsNeverReachTheTransmitSide : Prop :=
  ∀ (es : List Event) (s : State), ∃ t u,
    runEvents es s = .next t ∧ runEvents (es.filter (fun e => !e.isArrival)) s = .next u ∧
      KeepsTxOperands u t ∧ KeepsTxOutput u t

/-- R135, first bullet, taken as it stands ("FILL, read once, is a lower bound of every later FILL until the host
removes bytes") for one arrival. It disagrees with R75 when the ring is full and OVF_CHUNK ≥ 2, so it is expected to
fail (log 24). -/
def Obligations.FillIsALowerBoundUnderArrivals : Prop :=
  ∀ (s t : State) (b : Byte) (rest : List Event), Inv s → s.inputs = .rx b :: rest → step s = .next t → s.fill ≤ t.fill
end

