-- ==== Sys2Proof/Laws/Decode.lean ====
section
/-! SUPPORT. The fields of a command word (30_encoding.md R56, R57): what ARG and OP put into it, and what comes back
out. -/

namespace Sys2Proof

/-- A command word as a number: ARG above RSV = 0 above OP (R56). -/
theorem commandWord_toNat (arg : Half) (op : Byte) : (commandWord arg op).toNat = arg.toNat * 65536 + op.toNat := by
  have ho := op.isLt
  have h8 : (arg ++ 0#8 : BitVec 24).toNat = arg.toNat * 256 := by
    rw [BitVec.toNat_append, Nat.shiftLeft_eq]
    simp
  rw [commandWord, BitVec.toNat_append, h8, Nat.shiftLeft_eq, Nat.mul_comm (arg.toNat * 256),
    ← Nat.two_pow_add_eq_or_of_lt ho]
  omega

@[simp] theorem commandWord_op (arg : Half) (op : Byte) : (commandWord arg op).extractLsb' 0 8 = op := by
  have ho := op.isLt
  apply BitVec.eq_of_toNat_eq
  rw [BitVec.extractLsb'_toNat, commandWord_toNat, Nat.shiftRight_eq_div_pow]
  omega

@[simp] theorem commandWord_rsv (arg : Half) (op : Byte) : (commandWord arg op).extractLsb' 8 8 = 0 := by
  have ho := op.isLt
  apply BitVec.eq_of_toNat_eq
  rw [BitVec.extractLsb'_toNat, commandWord_toNat, Nat.shiftRight_eq_div_pow]
  show _ % 2 ^ 8 = 0
  omega

@[simp] theorem commandWord_arg (arg : Half) (op : Byte) : (commandWord arg op).extractLsb' 16 16 = arg := by
  have ho := op.isLt
  have ha := arg.isLt
  apply BitVec.eq_of_toNat_eq
  rw [BitVec.extractLsb'_toNat, commandWord_toNat, Nat.shiftRight_eq_div_pow]
  omega

/-- A word is its three fields: with RSV = 0 it is the command word of its ARG and OP (R56). -/
theorem eq_commandWord_of_rsv {w : Word} (h : w.extractLsb' 8 8 = 0) :
    w = commandWord (w.extractLsb' 16 16) (w.extractLsb' 0 8) := by
  have hw := w.isLt
  have h' := congrArg BitVec.toNat h
  apply BitVec.eq_of_toNat_eq
  rw [commandWord_toNat]
  simp only [BitVec.extractLsb'_toNat, Nat.shiftRight_eq_div_pow] at h' ⊢
  have hz : (0 : Byte).toNat = 0 := rfl
  rw [hz] at h'
  omega

/-! ## The match/mask rows as arithmetic on the word -/

theorem and_mask_all (w : Word) : w &&& 0xFFFFFFFF = w := by
  have e : (0xFFFFFFFF : Word) = BitVec.allOnes 32 := by decide
  rw [e, BitVec.and_allOnes]

theorem and_mask_count (w : Word) : (w &&& 0x0000FFFF).toNat = w.toNat % 65536 := by
  rw [BitVec.toNat_and]
  show w.toNat &&& (2 ^ 16 - 1) = _
  rw [Nat.and_two_pow_sub_one_eq_mod]

theorem and_mask_high (w : Word) : (w &&& 0xFF000000#32).toNat = 2 ^ 24 * (w.toNat / 2 ^ 24) := by
  have hw := w.isLt
  have ones : ∀ k < 8, (0xFF#32).getLsbD k = true := by decide
  have e : w &&& 0xFF000000#32 = (w >>> 24) <<< 24 := by
    rw [show (0xFF000000#32 : Word) = (0xFF#32 <<< 24) by decide]
    ext i hi
    simp only [BitVec.getElem_and, BitVec.getElem_shiftLeft]
    by_cases h : i < 24
    · simp [h]
    · have hk := ones (i - 24) (by omega)
      simp [h, hk, show 24 + (i - 24) = i by omega, BitVec.getLsbD_eq_getElem hi]
  rw [e]
  simp [BitVec.toNat_shiftLeft, BitVec.toNat_ushiftRight, Nat.shiftLeft_eq, Nat.shiftRight_eq_div_pow]
  omega

theorem and_mask_byte (w : Word) :
    (w &&& 0xFF00FFFF).toNat = w.toNat % 65536 + (w.toNat / 2 ^ 24) * 2 ^ 24 := by
  rw [show (0xFF00FFFF : Word) = 0xFF000000#32 ||| 0x0000FFFF#32 by decide, BitVec.and_or_distrib_left,
    BitVec.toNat_or, show (w &&& 0x0000FFFF#32).toNat = w.toNat % 65536 from and_mask_count w, and_mask_high,
    ← Nat.two_pow_add_eq_or_of_lt (by omega)]
  omega

/-- A no-operand row is selected by its one word. -/
theorem selects_all (w c : Word) : (w &&& 0xFFFFFFFF == c) = decide (w.toNat = c.toNat) := by
  rw [and_mask_all]
  show decide (w = c) = _
  rw [decide_eq_decide, BitVec.toNat_eq]

/-- A count or offset row is selected by the low half of the word. -/
theorem selects_count (w c : Word) : (w &&& 0x0000FFFF == c) = decide (w.toNat % 65536 = c.toNat) := by
  show decide (w &&& 0x0000FFFF = c) = _
  rw [decide_eq_decide, BitVec.toNat_eq, and_mask_count]

/-- A byte row is selected by the low half of the word and a zero top byte. -/
theorem selects_byte (w c : Word) (hc : c.toNat < 65536) :
    (w &&& 0xFF00FFFF == c) = decide (w.toNat % 65536 = c.toNat ∧ w.toNat / 2 ^ 24 = 0) := by
  show decide (w &&& 0xFF00FFFF = c) = _
  rw [decide_eq_decide, BitVec.toNat_eq, and_mask_byte]
  omega

/-- Decoding with the rows of a list, in order. -/
def decodeFrom (rows : List OpcodeRow) (w : Word) : Except IllegalWord Instr :=
  match rows.find? (fun r => r.selects w) with
  | some r => .ok (r.build w)
  | none => .error (illegalReason w)

theorem decodeFrom_cons (r : OpcodeRow) (rs : List OpcodeRow) (w : Word) :
    decodeFrom (r :: rs) w = if r.selects w = true then .ok (r.build w) else decodeFrom rs w := by
  unfold decodeFrom
  rw [List.find?_cons]
  cases r.selects w <;> rfl

/-- The decoder in closed form: R59's table read as arithmetic on the word. -/
theorem decode_eq (w : Word) : decode w =
    if w.toNat % 65536 = 1 ∧ w.toNat / 2 ^ 24 = 0 then .ok (.push (byteOperand w))
    else if w.toNat = 2 then .ok .pop
    else if w.toNat = 3 then .ok .peek
    else if w.toNat % 65536 = 4 then .ok (.peekAt (countOperand w))
    else if w.toNat % 65536 = 5 then .ok (.discard (countOperand w))
    else if w.toNat = 6 then .ok .available
    else if w.toNat = 7 then .ok .free
    else if w.toNat = 8 then .ok .capacity
    else if w.toNat = 9 then .ok .clear
    else if w.toNat % 65536 = 10 ∧ w.toNat / 2 ^ 24 = 0 then .ok (.rxByte (byteOperand w))
    else if w.toNat = 16 then .ok .parse
    else if w.toNat = 32 then .ok .checksum
    else if w.toNat = 33 then .ok .encode
    else .error (illegalReason w) := by
  show decodeFrom opcodeRows w = _
  simp only [opcodeRows, decodeFrom_cons, OpcodeRow.selects, selects_all, selects_count,
    selects_byte w 1 (by decide), selects_byte w 10 (by decide), decide_eq_true_eq]
  rfl

end Sys2Proof
end

