-- ==== Sys2Proof/Laws/Memory.lean ====
section
/-! SUPPORT. Byte storage: read after write, and that every write keeps the canonical form and the range. -/

namespace Sys2Proof.Machine

@[simp] theorem Memory.cellAt_nil (a : Nat) : Memory.cellAt [] a = none := rfl

/-- Reading an index after a write there gives the byte written; any other index reads as before. -/
theorem Memory.cellAt_store (m : Memory) (a : Nat) (b : Byte) (i : Nat) :
    Memory.cellAt (Memory.store m a b) i = if i = a then some b else Memory.cellAt m i := by
  induction m with
  | nil => simp only [Memory.store, Memory.cellAt]
  | cons x rest ih =>
    obtain ⟨k, c⟩ := x
    simp only [Memory.store]
    split
    · simp only [Memory.cellAt]
    · split
      · next h => subst h; simp only [Memory.cellAt]; split <;> rfl
      · next h =>
        simp only [Memory.cellAt, ih]
        split
        · next hk => rw [if_neg (by omega)]
        · rfl

@[simp] theorem Memory.cellAt_store_self (m : Memory) (a : Nat) (b : Byte) :
    Memory.cellAt (Memory.store m a b) a = some b := by
  rw [Memory.cellAt_store, if_pos rfl]

theorem Memory.cellAt_store_of_ne (m : Memory) {a i : Nat} (b : Byte) (h : i ≠ a) :
    Memory.cellAt (Memory.store m a b) i = Memory.cellAt m i := by
  rw [Memory.cellAt_store, if_neg h]

/-- Every cell after a write is the one written or was there before. -/
theorem Memory.mem_store {m : Memory} {a : Nat} {b : Byte} {x : Host.Cell} (h : x ∈ Memory.store m a b) :
    x = (a, b) ∨ x ∈ m := by
  induction m with
  | nil => exact .inl (by simpa [Memory.store] using h)
  | cons y rest ih =>
    obtain ⟨k, c⟩ := y
    simp only [Memory.store] at h
    split at h
    · exact (List.mem_cons.1 h).imp_right id
    · split at h
      · exact (List.mem_cons.1 h).imp_right (List.mem_cons_of_mem _)
      · rcases List.mem_cons.1 h with h | h
        · exact .inr (h ▸ List.mem_cons_self)
        · exact (ih h).imp_right (List.mem_cons_of_mem _)

/-- A write keeps the canonical form. -/
theorem Memory.store_wf {m : Memory} (h : m.wf) (a : Nat) (b : Byte) : (Memory.store m a b).wf := by
  induction m with
  | nil => simp [Memory.store, Memory.wf]
  | cons y rest ih =>
    obtain ⟨k, c⟩ := y
    obtain ⟨hk, hr⟩ := List.pairwise_cons.1 h
    simp only [Memory.store]
    split
    · next hak =>
      refine List.pairwise_cons.2 ⟨fun x hx => ?_, h⟩
      rcases List.mem_cons.1 hx with rfl | hx
      · exact hak
      · exact Nat.lt_trans hak (hk x hx)
    · split
      · next hak => exact List.pairwise_cons.2 ⟨fun x hx => hak ▸ hk x hx, hr⟩
      · refine List.pairwise_cons.2 ⟨fun x hx => ?_, ih hr⟩
        rcases Memory.mem_store hx with rfl | hx
        · show k < a
          omega
        · exact hk x hx

/-- A write below `n` keeps the storage below `n`. -/
theorem Memory.store_below {m : Memory} {n a : Nat} (h : m.Below n) (ha : a < n) (b : Byte) :
    (Memory.store m a b).Below n := by
  intro x hx
  rcases Memory.mem_store hx with rfl | hx
  · exact ha
  · exact h x hx

/-- Reading after a run of writes: the byte of the run at that index, or as before. -/
theorem Memory.cellAt_storeAll (m : Memory) (a : Nat) (bs : List Byte) (i : Nat) :
    Memory.cellAt (Memory.storeAll m a bs) i =
      if a ≤ i ∧ i < a + bs.length then bs[i - a]? else Memory.cellAt m i := by
  induction bs generalizing m a with
  | nil => rw [if_neg (by simp only [List.length_nil]; omega)]; rfl
  | cons b bs ih =>
    rw [Memory.storeAll, ih, Memory.cellAt_store]
    rcases Nat.lt_trichotomy i a with h | rfl | h
    · rw [if_neg (by omega), if_neg (by omega), if_neg (by omega)]
    · rw [if_neg (by omega), if_pos rfl, if_pos (by simp)]
      simp
    · by_cases h2 : i < a + (bs.length + 1)
      · rw [if_pos (by omega), if_pos (by simp only [List.length_cons]; omega)]
        obtain ⟨d, rfl⟩ : ∃ d, i = a + 1 + d := ⟨i - (a + 1), by omega⟩
        have e : a + 1 + d - a = d + 1 := by omega
        simp [e]
      · rw [if_neg (by omega), if_neg (by omega), if_neg (by simp only [List.length_cons]; omega)]

/-- A run of writes keeps the canonical form. -/
theorem Memory.storeAll_wf {m : Memory} (h : m.wf) (a : Nat) (bs : List Byte) : (Memory.storeAll m a bs).wf := by
  induction bs generalizing m a with
  | nil => exact h
  | cons b bs ih => exact ih (Memory.store_wf h a b) (a + 1)

/-- A run of writes that ends by `n` keeps the storage below `n`. -/
theorem Memory.storeAll_below {m : Memory} {n a : Nat} {bs : List Byte} (h : m.Below n) (ha : a + bs.length ≤ n) :
    (Memory.storeAll m a bs).Below n := by
  induction bs generalizing m a with
  | nil => exact h
  | cons b bs ih =>
    simp only [List.length_cons] at ha
    exact ih (Memory.store_below h (by omega) b) (by omega)

/-- A written cell stays written. -/
theorem Memory.isSome_store {m : Memory} {i : Nat} (h : (Memory.cellAt m i).isSome) (a : Nat) (b : Byte) :
    (Memory.cellAt (Memory.store m a b) i).isSome := by
  rw [Memory.cellAt_store]; split
  · rfl
  · exact h

/-- Two canonical storages that read alike at every index are the same list: equal contents are equal data. -/
theorem Memory.ext_of_wf {m m' : Memory} (h : m.wf) (h' : m'.wf)
    (e : ∀ i, Memory.cellAt m i = Memory.cellAt m' i) : m = m' := by
  induction m generalizing m' with
  | nil =>
    cases m' with
    | nil => rfl
    | cons y r => simpa [Memory.cellAt] using e y.1
  | cons x r ih =>
    obtain ⟨k, c⟩ := x
    obtain ⟨hk, hr⟩ := List.pairwise_cons.1 h
    have none_below : ∀ {q : Memory} {i : Nat}, (∀ y ∈ q, i < y.1) → Memory.cellAt q i = none := by
      intro q i hq
      induction q with
      | nil => rfl
      | cons y q ihq =>
        obtain ⟨l, d⟩ := y
        have := hq (l, d) List.mem_cons_self
        simp only [Memory.cellAt]
        rw [if_neg (by simp at this; omega), ihq fun y hy => hq y (List.mem_cons_of_mem _ hy)]
    cases m' with
    | nil => simpa [Memory.cellAt] using e k
    | cons y r' =>
      obtain ⟨l, d⟩ := y
      obtain ⟨hl, hr'⟩ := List.pairwise_cons.1 h'
      have hkl : k = l := by
        rcases Nat.lt_trichotomy k l with hlt | heq | hlt
        · have := e k
          rw [none_below (q := (l, d) :: r') fun y hy => by
            rcases List.mem_cons.1 hy with rfl | hy
            · exact hlt
            · exact Nat.lt_trans hlt (hl y hy)] at this
          simp [Memory.cellAt] at this
        · exact heq
        · have := e l
          rw [none_below (q := (k, c) :: r) fun y hy => by
            rcases List.mem_cons.1 hy with rfl | hy
            · exact hlt
            · exact Nat.lt_trans hlt (hk y hy)] at this
          simp [Memory.cellAt] at this
      subst hkl
      have hcd : c = d := by simpa [Memory.cellAt] using e k
      subst hcd
      rw [ih hr hr' fun i => ?_]
      by_cases hi : i = k
      · subst hi; rw [none_below hk, none_below hl]
      · simpa [Memory.cellAt, hi] using e i

end Sys2Proof.Machine
end

