-- ==== Sys2Proof/Laws/State.lean ====
section
/-! SUPPORT. For each update of the state, what every field holds after it: true by unfolding, so that no later proof
unfolds a record update. -/

namespace Sys2Proof.Machine

/-! ## finish -/

@[simp] theorem finish_cfg (c : Cause) (r : Word) (s : State) : (finish c r s).cfg = s.cfg := rfl
@[simp] theorem finish_rxbuf (c : Cause) (r : Word) (s : State) : (finish c r s).rxbuf = s.rxbuf := rfl
@[simp] theorem finish_rd (c : Cause) (r : Word) (s : State) : (finish c r s).rd = s.rd := rfl
@[simp] theorem finish_wr (c : Cause) (r : Word) (s : State) : (finish c r s).wr = s.wr := rfl
@[simp] theorem finish_fill (c : Cause) (r : Word) (s : State) : (finish c r s).fill = s.fill := rfl
@[simp] theorem finish_peak (c : Cause) (r : Word) (s : State) : (finish c r s).peak = s.peak := rfl
@[simp] theorem finish_ovfCount (c : Cause) (r : Word) (s : State) : (finish c r s).ovfCount = s.ovfCount := rfl
@[simp] theorem finish_ovf (c : Cause) (r : Word) (s : State) : (finish c r s).ovf = s.ovf := rfl
@[simp] theorem finish_ill (c : Cause) (r : Word) (s : State) : (finish c r s).ill = s.ill := rfl
@[simp] theorem finish_txCount (c : Cause) (r : Word) (s : State) : (finish c r s).txCount = s.txCount := rfl
@[simp] theorem finish_rxCount (c : Cause) (r : Word) (s : State) : (finish c r s).rxCount = s.rxCount := rfl
@[simp] theorem finish_errCount (c : Cause) (r : Word) (s : State) : (finish c r s).errCount = s.errCount := rfl
@[simp] theorem finish_csumErrCount (c : Cause) (r : Word) (s : State) : (finish c r s).csumErrCount = s.csumErrCount := rfl
@[simp] theorem finish_result (c : Cause) (r : Word) (s : State) : (finish c r s).result = r := rfl
@[simp] theorem finish_cause (c : Cause) (r : Word) (s : State) : (finish c r s).cause = c := rfl
@[simp] theorem finish_pktCode (c : Cause) (r : Word) (s : State) : (finish c r s).pktCode = s.pktCode := rfl
@[simp] theorem finish_pktSeq (c : Cause) (r : Word) (s : State) : (finish c r s).pktSeq = s.pktSeq := rfl
@[simp] theorem finish_pktLen (c : Cause) (r : Word) (s : State) : (finish c r s).pktLen = s.pktLen := rfl
@[simp] theorem finish_pktPayload (c : Cause) (r : Word) (s : State) : (finish c r s).pktPayload = s.pktPayload := rfl
@[simp] theorem finish_txCode (c : Cause) (r : Word) (s : State) : (finish c r s).txCode = s.txCode := rfl
@[simp] theorem finish_txSeq (c : Cause) (r : Word) (s : State) : (finish c r s).txSeq = s.txSeq := rfl
@[simp] theorem finish_txLen (c : Cause) (r : Word) (s : State) : (finish c r s).txLen = s.txLen := rfl
@[simp] theorem finish_txPayload (c : Cause) (r : Word) (s : State) : (finish c r s).txPayload = s.txPayload := rfl
@[simp] theorem finish_txout (c : Cause) (r : Word) (s : State) : (finish c r s).txout = s.txout := rfl
@[simp] theorem finish_resets (c : Cause) (r : Word) (s : State) : (finish c r s).resets = s.resets := rfl
@[simp] theorem finish_inputs (c : Cause) (r : Word) (s : State) : (finish c r s).inputs = s.inputs := rfl
@[simp] theorem finish_responses (c : Cause) (r : Word) (s : State) : (finish c r s).responses = s.responses := rfl

/-! ## illegalCommand -/

@[simp] theorem illegalCommand_cfg (s : State) : (illegalCommand s).cfg = s.cfg := rfl
@[simp] theorem illegalCommand_rxbuf (s : State) : (illegalCommand s).rxbuf = s.rxbuf := rfl
@[simp] theorem illegalCommand_rd (s : State) : (illegalCommand s).rd = s.rd := rfl
@[simp] theorem illegalCommand_wr (s : State) : (illegalCommand s).wr = s.wr := rfl
@[simp] theorem illegalCommand_fill (s : State) : (illegalCommand s).fill = s.fill := rfl
@[simp] theorem illegalCommand_peak (s : State) : (illegalCommand s).peak = s.peak := rfl
@[simp] theorem illegalCommand_ovfCount (s : State) : (illegalCommand s).ovfCount = s.ovfCount := rfl
@[simp] theorem illegalCommand_ovf (s : State) : (illegalCommand s).ovf = s.ovf := rfl
@[simp] theorem illegalCommand_ill (s : State) : (illegalCommand s).ill = true := rfl
@[simp] theorem illegalCommand_txCount (s : State) : (illegalCommand s).txCount = s.txCount := rfl
@[simp] theorem illegalCommand_rxCount (s : State) : (illegalCommand s).rxCount = s.rxCount := rfl
@[simp] theorem illegalCommand_errCount (s : State) : (illegalCommand s).errCount = s.errCount := rfl
@[simp] theorem illegalCommand_csumErrCount (s : State) : (illegalCommand s).csumErrCount = s.csumErrCount := rfl
@[simp] theorem illegalCommand_result (s : State) : (illegalCommand s).result = 0 := rfl
@[simp] theorem illegalCommand_cause (s : State) : (illegalCommand s).cause = .illegal := rfl
@[simp] theorem illegalCommand_pktCode (s : State) : (illegalCommand s).pktCode = s.pktCode := rfl
@[simp] theorem illegalCommand_pktSeq (s : State) : (illegalCommand s).pktSeq = s.pktSeq := rfl
@[simp] theorem illegalCommand_pktLen (s : State) : (illegalCommand s).pktLen = s.pktLen := rfl
@[simp] theorem illegalCommand_pktPayload (s : State) : (illegalCommand s).pktPayload = s.pktPayload := rfl
@[simp] theorem illegalCommand_txCode (s : State) : (illegalCommand s).txCode = s.txCode := rfl
@[simp] theorem illegalCommand_txSeq (s : State) : (illegalCommand s).txSeq = s.txSeq := rfl
@[simp] theorem illegalCommand_txLen (s : State) : (illegalCommand s).txLen = s.txLen := rfl
@[simp] theorem illegalCommand_txPayload (s : State) : (illegalCommand s).txPayload = s.txPayload := rfl
@[simp] theorem illegalCommand_txout (s : State) : (illegalCommand s).txout = s.txout := rfl
@[simp] theorem illegalCommand_resets (s : State) : (illegalCommand s).resets = s.resets := rfl
@[simp] theorem illegalCommand_inputs (s : State) : (illegalCommand s).inputs = s.inputs := rfl
@[simp] theorem illegalCommand_responses (s : State) : (illegalCommand s).responses = s.responses := rfl

/-! ## storeByte -/

@[simp] theorem storeByte_cfg (b : Byte) (s : State) : (storeByte b s).cfg = s.cfg := rfl
@[simp] theorem storeByte_rxbuf (b : Byte) (s : State) : (storeByte b s).rxbuf = Memory.store s.rxbuf s.wr b := rfl
@[simp] theorem storeByte_rd (b : Byte) (s : State) : (storeByte b s).rd = s.rd := rfl
@[simp] theorem storeByte_wr (b : Byte) (s : State) : (storeByte b s).wr = (s.wr + 1) % s.cfg.rxCapacity := rfl
@[simp] theorem storeByte_fill (b : Byte) (s : State) : (storeByte b s).fill = s.fill + 1 := rfl
@[simp] theorem storeByte_peak (b : Byte) (s : State) : (storeByte b s).peak = max s.peak (s.fill + 1) := rfl
@[simp] theorem storeByte_ovfCount (b : Byte) (s : State) : (storeByte b s).ovfCount = s.ovfCount := rfl
@[simp] theorem storeByte_ovf (b : Byte) (s : State) : (storeByte b s).ovf = s.ovf := rfl
@[simp] theorem storeByte_ill (b : Byte) (s : State) : (storeByte b s).ill = s.ill := rfl
@[simp] theorem storeByte_txCount (b : Byte) (s : State) : (storeByte b s).txCount = s.txCount := rfl
@[simp] theorem storeByte_rxCount (b : Byte) (s : State) : (storeByte b s).rxCount = s.rxCount := rfl
@[simp] theorem storeByte_errCount (b : Byte) (s : State) : (storeByte b s).errCount = s.errCount := rfl
@[simp] theorem storeByte_csumErrCount (b : Byte) (s : State) : (storeByte b s).csumErrCount = s.csumErrCount := rfl
@[simp] theorem storeByte_result (b : Byte) (s : State) : (storeByte b s).result = s.result := rfl
@[simp] theorem storeByte_cause (b : Byte) (s : State) : (storeByte b s).cause = s.cause := rfl
@[simp] theorem storeByte_pktCode (b : Byte) (s : State) : (storeByte b s).pktCode = s.pktCode := rfl
@[simp] theorem storeByte_pktSeq (b : Byte) (s : State) : (storeByte b s).pktSeq = s.pktSeq := rfl
@[simp] theorem storeByte_pktLen (b : Byte) (s : State) : (storeByte b s).pktLen = s.pktLen := rfl
@[simp] theorem storeByte_pktPayload (b : Byte) (s : State) : (storeByte b s).pktPayload = s.pktPayload := rfl
@[simp] theorem storeByte_txCode (b : Byte) (s : State) : (storeByte b s).txCode = s.txCode := rfl
@[simp] theorem storeByte_txSeq (b : Byte) (s : State) : (storeByte b s).txSeq = s.txSeq := rfl
@[simp] theorem storeByte_txLen (b : Byte) (s : State) : (storeByte b s).txLen = s.txLen := rfl
@[simp] theorem storeByte_txPayload (b : Byte) (s : State) : (storeByte b s).txPayload = s.txPayload := rfl
@[simp] theorem storeByte_txout (b : Byte) (s : State) : (storeByte b s).txout = s.txout := rfl
@[simp] theorem storeByte_resets (b : Byte) (s : State) : (storeByte b s).resets = s.resets := rfl
@[simp] theorem storeByte_inputs (b : Byte) (s : State) : (storeByte b s).inputs = s.inputs := rfl
@[simp] theorem storeByte_responses (b : Byte) (s : State) : (storeByte b s).responses = s.responses := rfl

/-! ## dropOldest -/

@[simp] theorem dropOldest_cfg (k : Nat) (s : State) : (dropOldest k s).cfg = s.cfg := rfl
@[simp] theorem dropOldest_rxbuf (k : Nat) (s : State) : (dropOldest k s).rxbuf = s.rxbuf := rfl
@[simp] theorem dropOldest_rd (k : Nat) (s : State) : (dropOldest k s).rd = (s.rd + k) % s.cfg.rxCapacity := rfl
@[simp] theorem dropOldest_wr (k : Nat) (s : State) : (dropOldest k s).wr = s.wr := rfl
@[simp] theorem dropOldest_fill (k : Nat) (s : State) : (dropOldest k s).fill = s.fill - k := rfl
@[simp] theorem dropOldest_peak (k : Nat) (s : State) : (dropOldest k s).peak = s.peak := rfl
@[simp] theorem dropOldest_ovfCount (k : Nat) (s : State) : (dropOldest k s).ovfCount = s.ovfCount := rfl
@[simp] theorem dropOldest_ovf (k : Nat) (s : State) : (dropOldest k s).ovf = s.ovf := rfl
@[simp] theorem dropOldest_ill (k : Nat) (s : State) : (dropOldest k s).ill = s.ill := rfl
@[simp] theorem dropOldest_txCount (k : Nat) (s : State) : (dropOldest k s).txCount = s.txCount := rfl
@[simp] theorem dropOldest_rxCount (k : Nat) (s : State) : (dropOldest k s).rxCount = s.rxCount := rfl
@[simp] theorem dropOldest_errCount (k : Nat) (s : State) : (dropOldest k s).errCount = s.errCount := rfl
@[simp] theorem dropOldest_csumErrCount (k : Nat) (s : State) : (dropOldest k s).csumErrCount = s.csumErrCount := rfl
@[simp] theorem dropOldest_result (k : Nat) (s : State) : (dropOldest k s).result = s.result := rfl
@[simp] theorem dropOldest_cause (k : Nat) (s : State) : (dropOldest k s).cause = s.cause := rfl
@[simp] theorem dropOldest_pktCode (k : Nat) (s : State) : (dropOldest k s).pktCode = s.pktCode := rfl
@[simp] theorem dropOldest_pktSeq (k : Nat) (s : State) : (dropOldest k s).pktSeq = s.pktSeq := rfl
@[simp] theorem dropOldest_pktLen (k : Nat) (s : State) : (dropOldest k s).pktLen = s.pktLen := rfl
@[simp] theorem dropOldest_pktPayload (k : Nat) (s : State) : (dropOldest k s).pktPayload = s.pktPayload := rfl
@[simp] theorem dropOldest_txCode (k : Nat) (s : State) : (dropOldest k s).txCode = s.txCode := rfl
@[simp] theorem dropOldest_txSeq (k : Nat) (s : State) : (dropOldest k s).txSeq = s.txSeq := rfl
@[simp] theorem dropOldest_txLen (k : Nat) (s : State) : (dropOldest k s).txLen = s.txLen := rfl
@[simp] theorem dropOldest_txPayload (k : Nat) (s : State) : (dropOldest k s).txPayload = s.txPayload := rfl
@[simp] theorem dropOldest_txout (k : Nat) (s : State) : (dropOldest k s).txout = s.txout := rfl
@[simp] theorem dropOldest_resets (k : Nat) (s : State) : (dropOldest k s).resets = s.resets := rfl
@[simp] theorem dropOldest_inputs (k : Nat) (s : State) : (dropOldest k s).inputs = s.inputs := rfl
@[simp] theorem dropOldest_responses (k : Nat) (s : State) : (dropOldest k s).responses = s.responses := rfl

/-! ## rejectPush -/

@[simp] theorem rejectPush_cfg (s : State) : (rejectPush s).cfg = s.cfg := rfl
@[simp] theorem rejectPush_rxbuf (s : State) : (rejectPush s).rxbuf = s.rxbuf := rfl
@[simp] theorem rejectPush_rd (s : State) : (rejectPush s).rd = s.rd := rfl
@[simp] theorem rejectPush_wr (s : State) : (rejectPush s).wr = s.wr := rfl
@[simp] theorem rejectPush_fill (s : State) : (rejectPush s).fill = s.fill := rfl
@[simp] theorem rejectPush_peak (s : State) : (rejectPush s).peak = s.peak := rfl
@[simp] theorem rejectPush_ovfCount (s : State) : (rejectPush s).ovfCount = s.ovfCount + 1 := rfl
@[simp] theorem rejectPush_ovf (s : State) : (rejectPush s).ovf = true := rfl
@[simp] theorem rejectPush_ill (s : State) : (rejectPush s).ill = s.ill := rfl
@[simp] theorem rejectPush_txCount (s : State) : (rejectPush s).txCount = s.txCount := rfl
@[simp] theorem rejectPush_rxCount (s : State) : (rejectPush s).rxCount = s.rxCount := rfl
@[simp] theorem rejectPush_errCount (s : State) : (rejectPush s).errCount = s.errCount := rfl
@[simp] theorem rejectPush_csumErrCount (s : State) : (rejectPush s).csumErrCount = s.csumErrCount := rfl
@[simp] theorem rejectPush_result (s : State) : (rejectPush s).result = s.result := rfl
@[simp] theorem rejectPush_cause (s : State) : (rejectPush s).cause = s.cause := rfl
@[simp] theorem rejectPush_pktCode (s : State) : (rejectPush s).pktCode = s.pktCode := rfl
@[simp] theorem rejectPush_pktSeq (s : State) : (rejectPush s).pktSeq = s.pktSeq := rfl
@[simp] theorem rejectPush_pktLen (s : State) : (rejectPush s).pktLen = s.pktLen := rfl
@[simp] theorem rejectPush_pktPayload (s : State) : (rejectPush s).pktPayload = s.pktPayload := rfl
@[simp] theorem rejectPush_txCode (s : State) : (rejectPush s).txCode = s.txCode := rfl
@[simp] theorem rejectPush_txSeq (s : State) : (rejectPush s).txSeq = s.txSeq := rfl
@[simp] theorem rejectPush_txLen (s : State) : (rejectPush s).txLen = s.txLen := rfl
@[simp] theorem rejectPush_txPayload (s : State) : (rejectPush s).txPayload = s.txPayload := rfl
@[simp] theorem rejectPush_txout (s : State) : (rejectPush s).txout = s.txout := rfl
@[simp] theorem rejectPush_resets (s : State) : (rejectPush s).resets = s.resets := rfl
@[simp] theorem rejectPush_inputs (s : State) : (rejectPush s).inputs = s.inputs := rfl
@[simp] theorem rejectPush_responses (s : State) : (rejectPush s).responses = s.responses := rfl

/-! ## clearRing -/

@[simp] theorem clearRing_cfg (s : State) : (clearRing s).cfg = s.cfg := rfl
@[simp] theorem clearRing_rxbuf (s : State) : (clearRing s).rxbuf = s.rxbuf := rfl
@[simp] theorem clearRing_rd (s : State) : (clearRing s).rd = 0 := rfl
@[simp] theorem clearRing_wr (s : State) : (clearRing s).wr = 0 := rfl
@[simp] theorem clearRing_fill (s : State) : (clearRing s).fill = 0 := rfl
@[simp] theorem clearRing_peak (s : State) : (clearRing s).peak = s.peak := rfl
@[simp] theorem clearRing_ovfCount (s : State) : (clearRing s).ovfCount = s.ovfCount := rfl
@[simp] theorem clearRing_ovf (s : State) : (clearRing s).ovf = s.ovf := rfl
@[simp] theorem clearRing_ill (s : State) : (clearRing s).ill = s.ill := rfl
@[simp] theorem clearRing_txCount (s : State) : (clearRing s).txCount = s.txCount := rfl
@[simp] theorem clearRing_rxCount (s : State) : (clearRing s).rxCount = s.rxCount := rfl
@[simp] theorem clearRing_errCount (s : State) : (clearRing s).errCount = s.errCount := rfl
@[simp] theorem clearRing_csumErrCount (s : State) : (clearRing s).csumErrCount = s.csumErrCount := rfl
@[simp] theorem clearRing_result (s : State) : (clearRing s).result = s.result := rfl
@[simp] theorem clearRing_cause (s : State) : (clearRing s).cause = s.cause := rfl
@[simp] theorem clearRing_pktCode (s : State) : (clearRing s).pktCode = s.pktCode := rfl
@[simp] theorem clearRing_pktSeq (s : State) : (clearRing s).pktSeq = s.pktSeq := rfl
@[simp] theorem clearRing_pktLen (s : State) : (clearRing s).pktLen = s.pktLen := rfl
@[simp] theorem clearRing_pktPayload (s : State) : (clearRing s).pktPayload = s.pktPayload := rfl
@[simp] theorem clearRing_txCode (s : State) : (clearRing s).txCode = s.txCode := rfl
@[simp] theorem clearRing_txSeq (s : State) : (clearRing s).txSeq = s.txSeq := rfl
@[simp] theorem clearRing_txLen (s : State) : (clearRing s).txLen = s.txLen := rfl
@[simp] theorem clearRing_txPayload (s : State) : (clearRing s).txPayload = s.txPayload := rfl
@[simp] theorem clearRing_txout (s : State) : (clearRing s).txout = s.txout := rfl
@[simp] theorem clearRing_resets (s : State) : (clearRing s).resets = s.resets := rfl
@[simp] theorem clearRing_inputs (s : State) : (clearRing s).inputs = s.inputs := rfl
@[simp] theorem clearRing_responses (s : State) : (clearRing s).responses = s.responses := rfl

/-! ## emit -/

@[simp] theorem emit_cfg (b : Byte) (s : State) : (emit b s).cfg = s.cfg := rfl
@[simp] theorem emit_rxbuf (b : Byte) (s : State) : (emit b s).rxbuf = s.rxbuf := rfl
@[simp] theorem emit_rd (b : Byte) (s : State) : (emit b s).rd = s.rd := rfl
@[simp] theorem emit_wr (b : Byte) (s : State) : (emit b s).wr = s.wr := rfl
@[simp] theorem emit_fill (b : Byte) (s : State) : (emit b s).fill = s.fill := rfl
@[simp] theorem emit_peak (b : Byte) (s : State) : (emit b s).peak = s.peak := rfl
@[simp] theorem emit_ovfCount (b : Byte) (s : State) : (emit b s).ovfCount = s.ovfCount := rfl
@[simp] theorem emit_ovf (b : Byte) (s : State) : (emit b s).ovf = s.ovf := rfl
@[simp] theorem emit_ill (b : Byte) (s : State) : (emit b s).ill = s.ill := rfl
@[simp] theorem emit_txCount (b : Byte) (s : State) : (emit b s).txCount = s.txCount := rfl
@[simp] theorem emit_rxCount (b : Byte) (s : State) : (emit b s).rxCount = s.rxCount := rfl
@[simp] theorem emit_errCount (b : Byte) (s : State) : (emit b s).errCount = s.errCount := rfl
@[simp] theorem emit_csumErrCount (b : Byte) (s : State) : (emit b s).csumErrCount = s.csumErrCount := rfl
@[simp] theorem emit_result (b : Byte) (s : State) : (emit b s).result = s.result := rfl
@[simp] theorem emit_cause (b : Byte) (s : State) : (emit b s).cause = s.cause := rfl
@[simp] theorem emit_pktCode (b : Byte) (s : State) : (emit b s).pktCode = s.pktCode := rfl
@[simp] theorem emit_pktSeq (b : Byte) (s : State) : (emit b s).pktSeq = s.pktSeq := rfl
@[simp] theorem emit_pktLen (b : Byte) (s : State) : (emit b s).pktLen = s.pktLen := rfl
@[simp] theorem emit_pktPayload (b : Byte) (s : State) : (emit b s).pktPayload = s.pktPayload := rfl
@[simp] theorem emit_txCode (b : Byte) (s : State) : (emit b s).txCode = s.txCode := rfl
@[simp] theorem emit_txSeq (b : Byte) (s : State) : (emit b s).txSeq = s.txSeq := rfl
@[simp] theorem emit_txLen (b : Byte) (s : State) : (emit b s).txLen = s.txLen := rfl
@[simp] theorem emit_txPayload (b : Byte) (s : State) : (emit b s).txPayload = s.txPayload := rfl
@[simp] theorem emit_txout (b : Byte) (s : State) : (emit b s).txout = s.txout ++ [b] := rfl
@[simp] theorem emit_resets (b : Byte) (s : State) : (emit b s).resets = s.resets := rfl
@[simp] theorem emit_inputs (b : Byte) (s : State) : (emit b s).inputs = s.inputs := rfl
@[simp] theorem emit_responses (b : Byte) (s : State) : (emit b s).responses = s.responses := rfl

/-! ## respond -/

@[simp] theorem respond_cfg (r : Response) (s : State) : (respond r s).cfg = s.cfg := rfl
@[simp] theorem respond_rxbuf (r : Response) (s : State) : (respond r s).rxbuf = s.rxbuf := rfl
@[simp] theorem respond_rd (r : Response) (s : State) : (respond r s).rd = s.rd := rfl
@[simp] theorem respond_wr (r : Response) (s : State) : (respond r s).wr = s.wr := rfl
@[simp] theorem respond_fill (r : Response) (s : State) : (respond r s).fill = s.fill := rfl
@[simp] theorem respond_peak (r : Response) (s : State) : (respond r s).peak = s.peak := rfl
@[simp] theorem respond_ovfCount (r : Response) (s : State) : (respond r s).ovfCount = s.ovfCount := rfl
@[simp] theorem respond_ovf (r : Response) (s : State) : (respond r s).ovf = s.ovf := rfl
@[simp] theorem respond_ill (r : Response) (s : State) : (respond r s).ill = s.ill := rfl
@[simp] theorem respond_txCount (r : Response) (s : State) : (respond r s).txCount = s.txCount := rfl
@[simp] theorem respond_rxCount (r : Response) (s : State) : (respond r s).rxCount = s.rxCount := rfl
@[simp] theorem respond_errCount (r : Response) (s : State) : (respond r s).errCount = s.errCount := rfl
@[simp] theorem respond_csumErrCount (r : Response) (s : State) : (respond r s).csumErrCount = s.csumErrCount := rfl
@[simp] theorem respond_result (r : Response) (s : State) : (respond r s).result = s.result := rfl
@[simp] theorem respond_cause (r : Response) (s : State) : (respond r s).cause = s.cause := rfl
@[simp] theorem respond_pktCode (r : Response) (s : State) : (respond r s).pktCode = s.pktCode := rfl
@[simp] theorem respond_pktSeq (r : Response) (s : State) : (respond r s).pktSeq = s.pktSeq := rfl
@[simp] theorem respond_pktLen (r : Response) (s : State) : (respond r s).pktLen = s.pktLen := rfl
@[simp] theorem respond_pktPayload (r : Response) (s : State) : (respond r s).pktPayload = s.pktPayload := rfl
@[simp] theorem respond_txCode (r : Response) (s : State) : (respond r s).txCode = s.txCode := rfl
@[simp] theorem respond_txSeq (r : Response) (s : State) : (respond r s).txSeq = s.txSeq := rfl
@[simp] theorem respond_txLen (r : Response) (s : State) : (respond r s).txLen = s.txLen := rfl
@[simp] theorem respond_txPayload (r : Response) (s : State) : (respond r s).txPayload = s.txPayload := rfl
@[simp] theorem respond_txout (r : Response) (s : State) : (respond r s).txout = s.txout := rfl
@[simp] theorem respond_resets (r : Response) (s : State) : (respond r s).resets = s.resets := rfl
@[simp] theorem respond_inputs (r : Response) (s : State) : (respond r s).inputs = s.inputs := rfl
@[simp] theorem respond_responses (r : Response) (s : State) : (respond r s).responses = s.responses ++ [r] := rfl

/-! ## performReset -/

@[simp] theorem performReset_cfg (s : State) : (performReset s).cfg = s.cfg := rfl
@[simp] theorem performReset_rxbuf (s : State) : (performReset s).rxbuf = [] := rfl
@[simp] theorem performReset_rd (s : State) : (performReset s).rd = 0 := rfl
@[simp] theorem performReset_wr (s : State) : (performReset s).wr = 0 := rfl
@[simp] theorem performReset_fill (s : State) : (performReset s).fill = 0 := rfl
@[simp] theorem performReset_peak (s : State) : (performReset s).peak = 0 := rfl
@[simp] theorem performReset_ovfCount (s : State) : (performReset s).ovfCount = 0 := rfl
@[simp] theorem performReset_ovf (s : State) : (performReset s).ovf = false := rfl
@[simp] theorem performReset_ill (s : State) : (performReset s).ill = false := rfl
@[simp] theorem performReset_txCount (s : State) : (performReset s).txCount = 0 := rfl
@[simp] theorem performReset_rxCount (s : State) : (performReset s).rxCount = 0 := rfl
@[simp] theorem performReset_errCount (s : State) : (performReset s).errCount = 0 := rfl
@[simp] theorem performReset_csumErrCount (s : State) : (performReset s).csumErrCount = 0 := rfl
@[simp] theorem performReset_result (s : State) : (performReset s).result = 0 := rfl
@[simp] theorem performReset_cause (s : State) : (performReset s).cause = .noCmd := rfl
@[simp] theorem performReset_pktCode (s : State) : (performReset s).pktCode = 0 := rfl
@[simp] theorem performReset_pktSeq (s : State) : (performReset s).pktSeq = 0 := rfl
@[simp] theorem performReset_pktLen (s : State) : (performReset s).pktLen = 0 := rfl
@[simp] theorem performReset_pktPayload (s : State) : (performReset s).pktPayload = [] := rfl
@[simp] theorem performReset_txCode (s : State) : (performReset s).txCode = 0 := rfl
@[simp] theorem performReset_txSeq (s : State) : (performReset s).txSeq = 0 := rfl
@[simp] theorem performReset_txLen (s : State) : (performReset s).txLen = 0 := rfl
@[simp] theorem performReset_txPayload (s : State) : (performReset s).txPayload = [] := rfl
@[simp] theorem performReset_txout (s : State) : (performReset s).txout = [] := rfl
@[simp] theorem performReset_resets (s : State) : (performReset s).resets = s.resets + 1 := rfl
@[simp] theorem performReset_inputs (s : State) : (performReset s).inputs = s.inputs := rfl
@[simp] theorem performReset_responses (s : State) : (performReset s).responses = s.responses := rfl

/-! ## clearSticky -/

@[simp] theorem clearSticky_cfg (v : Word) (s : State) : (clearSticky v s).cfg = s.cfg := rfl
@[simp] theorem clearSticky_rxbuf (v : Word) (s : State) : (clearSticky v s).rxbuf = s.rxbuf := rfl
@[simp] theorem clearSticky_rd (v : Word) (s : State) : (clearSticky v s).rd = s.rd := rfl
@[simp] theorem clearSticky_wr (v : Word) (s : State) : (clearSticky v s).wr = s.wr := rfl
@[simp] theorem clearSticky_fill (v : Word) (s : State) : (clearSticky v s).fill = s.fill := rfl
@[simp] theorem clearSticky_peak (v : Word) (s : State) : (clearSticky v s).peak = s.peak := rfl
@[simp] theorem clearSticky_ovfCount (v : Word) (s : State) : (clearSticky v s).ovfCount = s.ovfCount := rfl
@[simp] theorem clearSticky_ovf (v : Word) (s : State) : (clearSticky v s).ovf = (s.ovf && !v.getLsbD 3) := rfl
@[simp] theorem clearSticky_ill (v : Word) (s : State) : (clearSticky v s).ill = (s.ill && !v.getLsbD 4) := rfl
@[simp] theorem clearSticky_txCount (v : Word) (s : State) : (clearSticky v s).txCount = s.txCount := rfl
@[simp] theorem clearSticky_rxCount (v : Word) (s : State) : (clearSticky v s).rxCount = s.rxCount := rfl
@[simp] theorem clearSticky_errCount (v : Word) (s : State) : (clearSticky v s).errCount = s.errCount := rfl
@[simp] theorem clearSticky_csumErrCount (v : Word) (s : State) : (clearSticky v s).csumErrCount = s.csumErrCount := rfl
@[simp] theorem clearSticky_result (v : Word) (s : State) : (clearSticky v s).result = s.result := rfl
@[simp] theorem clearSticky_cause (v : Word) (s : State) : (clearSticky v s).cause = s.cause := rfl
@[simp] theorem clearSticky_pktCode (v : Word) (s : State) : (clearSticky v s).pktCode = s.pktCode := rfl
@[simp] theorem clearSticky_pktSeq (v : Word) (s : State) : (clearSticky v s).pktSeq = s.pktSeq := rfl
@[simp] theorem clearSticky_pktLen (v : Word) (s : State) : (clearSticky v s).pktLen = s.pktLen := rfl
@[simp] theorem clearSticky_pktPayload (v : Word) (s : State) : (clearSticky v s).pktPayload = s.pktPayload := rfl
@[simp] theorem clearSticky_txCode (v : Word) (s : State) : (clearSticky v s).txCode = s.txCode := rfl
@[simp] theorem clearSticky_txSeq (v : Word) (s : State) : (clearSticky v s).txSeq = s.txSeq := rfl
@[simp] theorem clearSticky_txLen (v : Word) (s : State) : (clearSticky v s).txLen = s.txLen := rfl
@[simp] theorem clearSticky_txPayload (v : Word) (s : State) : (clearSticky v s).txPayload = s.txPayload := rfl
@[simp] theorem clearSticky_txout (v : Word) (s : State) : (clearSticky v s).txout = s.txout := rfl
@[simp] theorem clearSticky_resets (v : Word) (s : State) : (clearSticky v s).resets = s.resets := rfl
@[simp] theorem clearSticky_inputs (v : Word) (s : State) : (clearSticky v s).inputs = s.inputs := rfl
@[simp] theorem clearSticky_responses (v : Word) (s : State) : (clearSticky v s).responses = s.responses := rfl

/-! ## writeTxHdr -/

@[simp] theorem writeTxHdr_cfg (v : Word) (s : State) : (writeTxHdr v s).cfg = s.cfg := rfl
@[simp] theorem writeTxHdr_rxbuf (v : Word) (s : State) : (writeTxHdr v s).rxbuf = s.rxbuf := rfl
@[simp] theorem writeTxHdr_rd (v : Word) (s : State) : (writeTxHdr v s).rd = s.rd := rfl
@[simp] theorem writeTxHdr_wr (v : Word) (s : State) : (writeTxHdr v s).wr = s.wr := rfl
@[simp] theorem writeTxHdr_fill (v : Word) (s : State) : (writeTxHdr v s).fill = s.fill := rfl
@[simp] theorem writeTxHdr_peak (v : Word) (s : State) : (writeTxHdr v s).peak = s.peak := rfl
@[simp] theorem writeTxHdr_ovfCount (v : Word) (s : State) : (writeTxHdr v s).ovfCount = s.ovfCount := rfl
@[simp] theorem writeTxHdr_ovf (v : Word) (s : State) : (writeTxHdr v s).ovf = s.ovf := rfl
@[simp] theorem writeTxHdr_ill (v : Word) (s : State) : (writeTxHdr v s).ill = s.ill := rfl
@[simp] theorem writeTxHdr_txCount (v : Word) (s : State) : (writeTxHdr v s).txCount = s.txCount := rfl
@[simp] theorem writeTxHdr_rxCount (v : Word) (s : State) : (writeTxHdr v s).rxCount = s.rxCount := rfl
@[simp] theorem writeTxHdr_errCount (v : Word) (s : State) : (writeTxHdr v s).errCount = s.errCount := rfl
@[simp] theorem writeTxHdr_csumErrCount (v : Word) (s : State) : (writeTxHdr v s).csumErrCount = s.csumErrCount := rfl
@[simp] theorem writeTxHdr_result (v : Word) (s : State) : (writeTxHdr v s).result = s.result := rfl
@[simp] theorem writeTxHdr_cause (v : Word) (s : State) : (writeTxHdr v s).cause = s.cause := rfl
@[simp] theorem writeTxHdr_pktCode (v : Word) (s : State) : (writeTxHdr v s).pktCode = s.pktCode := rfl
@[simp] theorem writeTxHdr_pktSeq (v : Word) (s : State) : (writeTxHdr v s).pktSeq = s.pktSeq := rfl
@[simp] theorem writeTxHdr_pktLen (v : Word) (s : State) : (writeTxHdr v s).pktLen = s.pktLen := rfl
@[simp] theorem writeTxHdr_pktPayload (v : Word) (s : State) : (writeTxHdr v s).pktPayload = s.pktPayload := rfl
@[simp] theorem writeTxHdr_txCode (v : Word) (s : State) : (writeTxHdr v s).txCode = v.extractLsb' 0 8 := rfl
@[simp] theorem writeTxHdr_txSeq (v : Word) (s : State) : (writeTxHdr v s).txSeq = v.extractLsb' 8 8 := rfl
@[simp] theorem writeTxHdr_txLen (v : Word) (s : State) : (writeTxHdr v s).txLen = v.extractLsb' 16 16 := rfl
@[simp] theorem writeTxHdr_txPayload (v : Word) (s : State) : (writeTxHdr v s).txPayload = s.txPayload := rfl
@[simp] theorem writeTxHdr_txout (v : Word) (s : State) : (writeTxHdr v s).txout = s.txout := rfl
@[simp] theorem writeTxHdr_resets (v : Word) (s : State) : (writeTxHdr v s).resets = s.resets := rfl
@[simp] theorem writeTxHdr_inputs (v : Word) (s : State) : (writeTxHdr v s).inputs = s.inputs := rfl
@[simp] theorem writeTxHdr_responses (v : Word) (s : State) : (writeTxHdr v s).responses = s.responses := rfl

/-! ## writeTxPayload -/

@[simp] theorem writeTxPayload_cfg (i : Nat) (bs : List Byte) (s : State) : (writeTxPayload i bs s).cfg = s.cfg := rfl
@[simp] theorem writeTxPayload_rxbuf (i : Nat) (bs : List Byte) (s : State) : (writeTxPayload i bs s).rxbuf = s.rxbuf := rfl
@[simp] theorem writeTxPayload_rd (i : Nat) (bs : List Byte) (s : State) : (writeTxPayload i bs s).rd = s.rd := rfl
@[simp] theorem writeTxPayload_wr (i : Nat) (bs : List Byte) (s : State) : (writeTxPayload i bs s).wr = s.wr := rfl
@[simp] theorem writeTxPayload_fill (i : Nat) (bs : List Byte) (s : State) : (writeTxPayload i bs s).fill = s.fill := rfl
@[simp] theorem writeTxPayload_peak (i : Nat) (bs : List Byte) (s : State) : (writeTxPayload i bs s).peak = s.peak := rfl
@[simp] theorem writeTxPayload_ovfCount (i : Nat) (bs : List Byte) (s : State) : (writeTxPayload i bs s).ovfCount = s.ovfCount := rfl
@[simp] theorem writeTxPayload_ovf (i : Nat) (bs : List Byte) (s : State) : (writeTxPayload i bs s).ovf = s.ovf := rfl
@[simp] theorem writeTxPayload_ill (i : Nat) (bs : List Byte) (s : State) : (writeTxPayload i bs s).ill = s.ill := rfl
@[simp] theorem writeTxPayload_txCount (i : Nat) (bs : List Byte) (s : State) : (writeTxPayload i bs s).txCount = s.txCount := rfl
@[simp] theorem writeTxPayload_rxCount (i : Nat) (bs : List Byte) (s : State) : (writeTxPayload i bs s).rxCount = s.rxCount := rfl
@[simp] theorem writeTxPayload_errCount (i : Nat) (bs : List Byte) (s : State) : (writeTxPayload i bs s).errCount = s.errCount := rfl
@[simp] theorem writeTxPayload_csumErrCount (i : Nat) (bs : List Byte) (s : State) : (writeTxPayload i bs s).csumErrCount = s.csumErrCount := rfl
@[simp] theorem writeTxPayload_result (i : Nat) (bs : List Byte) (s : State) : (writeTxPayload i bs s).result = s.result := rfl
@[simp] theorem writeTxPayload_cause (i : Nat) (bs : List Byte) (s : State) : (writeTxPayload i bs s).cause = s.cause := rfl
@[simp] theorem writeTxPayload_pktCode (i : Nat) (bs : List Byte) (s : State) : (writeTxPayload i bs s).pktCode = s.pktCode := rfl
@[simp] theorem writeTxPayload_pktSeq (i : Nat) (bs : List Byte) (s : State) : (writeTxPayload i bs s).pktSeq = s.pktSeq := rfl
@[simp] theorem writeTxPayload_pktLen (i : Nat) (bs : List Byte) (s : State) : (writeTxPayload i bs s).pktLen = s.pktLen := rfl
@[simp] theorem writeTxPayload_pktPayload (i : Nat) (bs : List Byte) (s : State) : (writeTxPayload i bs s).pktPayload = s.pktPayload := rfl
@[simp] theorem writeTxPayload_txCode (i : Nat) (bs : List Byte) (s : State) : (writeTxPayload i bs s).txCode = s.txCode := rfl
@[simp] theorem writeTxPayload_txSeq (i : Nat) (bs : List Byte) (s : State) : (writeTxPayload i bs s).txSeq = s.txSeq := rfl
@[simp] theorem writeTxPayload_txLen (i : Nat) (bs : List Byte) (s : State) : (writeTxPayload i bs s).txLen = s.txLen := rfl
@[simp] theorem writeTxPayload_txPayload (i : Nat) (bs : List Byte) (s : State) : (writeTxPayload i bs s).txPayload = Memory.storeAll s.txPayload i bs := rfl
@[simp] theorem writeTxPayload_txout (i : Nat) (bs : List Byte) (s : State) : (writeTxPayload i bs s).txout = s.txout := rfl
@[simp] theorem writeTxPayload_resets (i : Nat) (bs : List Byte) (s : State) : (writeTxPayload i bs s).resets = s.resets := rfl
@[simp] theorem writeTxPayload_inputs (i : Nat) (bs : List Byte) (s : State) : (writeTxPayload i bs s).inputs = s.inputs := rfl
@[simp] theorem writeTxPayload_responses (i : Nat) (bs : List Byte) (s : State) : (writeTxPayload i bs s).responses = s.responses := rfl

/-! ## countErr -/

@[simp] theorem countErr_cfg (s : State) : (countErr s).cfg = s.cfg := rfl
@[simp] theorem countErr_rxbuf (s : State) : (countErr s).rxbuf = s.rxbuf := rfl
@[simp] theorem countErr_rd (s : State) : (countErr s).rd = s.rd := rfl
@[simp] theorem countErr_wr (s : State) : (countErr s).wr = s.wr := rfl
@[simp] theorem countErr_fill (s : State) : (countErr s).fill = s.fill := rfl
@[simp] theorem countErr_peak (s : State) : (countErr s).peak = s.peak := rfl
@[simp] theorem countErr_ovfCount (s : State) : (countErr s).ovfCount = s.ovfCount := rfl
@[simp] theorem countErr_ovf (s : State) : (countErr s).ovf = s.ovf := rfl
@[simp] theorem countErr_ill (s : State) : (countErr s).ill = s.ill := rfl
@[simp] theorem countErr_txCount (s : State) : (countErr s).txCount = s.txCount := rfl
@[simp] theorem countErr_rxCount (s : State) : (countErr s).rxCount = s.rxCount := rfl
@[simp] theorem countErr_errCount (s : State) : (countErr s).errCount = s.errCount + 1 := rfl
@[simp] theorem countErr_csumErrCount (s : State) : (countErr s).csumErrCount = s.csumErrCount := rfl
@[simp] theorem countErr_result (s : State) : (countErr s).result = s.result := rfl
@[simp] theorem countErr_cause (s : State) : (countErr s).cause = s.cause := rfl
@[simp] theorem countErr_pktCode (s : State) : (countErr s).pktCode = s.pktCode := rfl
@[simp] theorem countErr_pktSeq (s : State) : (countErr s).pktSeq = s.pktSeq := rfl
@[simp] theorem countErr_pktLen (s : State) : (countErr s).pktLen = s.pktLen := rfl
@[simp] theorem countErr_pktPayload (s : State) : (countErr s).pktPayload = s.pktPayload := rfl
@[simp] theorem countErr_txCode (s : State) : (countErr s).txCode = s.txCode := rfl
@[simp] theorem countErr_txSeq (s : State) : (countErr s).txSeq = s.txSeq := rfl
@[simp] theorem countErr_txLen (s : State) : (countErr s).txLen = s.txLen := rfl
@[simp] theorem countErr_txPayload (s : State) : (countErr s).txPayload = s.txPayload := rfl
@[simp] theorem countErr_txout (s : State) : (countErr s).txout = s.txout := rfl
@[simp] theorem countErr_resets (s : State) : (countErr s).resets = s.resets := rfl
@[simp] theorem countErr_inputs (s : State) : (countErr s).inputs = s.inputs := rfl
@[simp] theorem countErr_responses (s : State) : (countErr s).responses = s.responses := rfl

/-! ## countCsumErr -/

@[simp] theorem countCsumErr_cfg (s : State) : (countCsumErr s).cfg = s.cfg := rfl
@[simp] theorem countCsumErr_rxbuf (s : State) : (countCsumErr s).rxbuf = s.rxbuf := rfl
@[simp] theorem countCsumErr_rd (s : State) : (countCsumErr s).rd = s.rd := rfl
@[simp] theorem countCsumErr_wr (s : State) : (countCsumErr s).wr = s.wr := rfl
@[simp] theorem countCsumErr_fill (s : State) : (countCsumErr s).fill = s.fill := rfl
@[simp] theorem countCsumErr_peak (s : State) : (countCsumErr s).peak = s.peak := rfl
@[simp] theorem countCsumErr_ovfCount (s : State) : (countCsumErr s).ovfCount = s.ovfCount := rfl
@[simp] theorem countCsumErr_ovf (s : State) : (countCsumErr s).ovf = s.ovf := rfl
@[simp] theorem countCsumErr_ill (s : State) : (countCsumErr s).ill = s.ill := rfl
@[simp] theorem countCsumErr_txCount (s : State) : (countCsumErr s).txCount = s.txCount := rfl
@[simp] theorem countCsumErr_rxCount (s : State) : (countCsumErr s).rxCount = s.rxCount := rfl
@[simp] theorem countCsumErr_errCount (s : State) : (countCsumErr s).errCount = s.errCount := rfl
@[simp] theorem countCsumErr_csumErrCount (s : State) : (countCsumErr s).csumErrCount = s.csumErrCount + 1 := rfl
@[simp] theorem countCsumErr_result (s : State) : (countCsumErr s).result = s.result := rfl
@[simp] theorem countCsumErr_cause (s : State) : (countCsumErr s).cause = s.cause := rfl
@[simp] theorem countCsumErr_pktCode (s : State) : (countCsumErr s).pktCode = s.pktCode := rfl
@[simp] theorem countCsumErr_pktSeq (s : State) : (countCsumErr s).pktSeq = s.pktSeq := rfl
@[simp] theorem countCsumErr_pktLen (s : State) : (countCsumErr s).pktLen = s.pktLen := rfl
@[simp] theorem countCsumErr_pktPayload (s : State) : (countCsumErr s).pktPayload = s.pktPayload := rfl
@[simp] theorem countCsumErr_txCode (s : State) : (countCsumErr s).txCode = s.txCode := rfl
@[simp] theorem countCsumErr_txSeq (s : State) : (countCsumErr s).txSeq = s.txSeq := rfl
@[simp] theorem countCsumErr_txLen (s : State) : (countCsumErr s).txLen = s.txLen := rfl
@[simp] theorem countCsumErr_txPayload (s : State) : (countCsumErr s).txPayload = s.txPayload := rfl
@[simp] theorem countCsumErr_txout (s : State) : (countCsumErr s).txout = s.txout := rfl
@[simp] theorem countCsumErr_resets (s : State) : (countCsumErr s).resets = s.resets := rfl
@[simp] theorem countCsumErr_inputs (s : State) : (countCsumErr s).inputs = s.inputs := rfl
@[simp] theorem countCsumErr_responses (s : State) : (countCsumErr s).responses = s.responses := rfl

/-! ## countRx -/

@[simp] theorem countRx_cfg (s : State) : (countRx s).cfg = s.cfg := rfl
@[simp] theorem countRx_rxbuf (s : State) : (countRx s).rxbuf = s.rxbuf := rfl
@[simp] theorem countRx_rd (s : State) : (countRx s).rd = s.rd := rfl
@[simp] theorem countRx_wr (s : State) : (countRx s).wr = s.wr := rfl
@[simp] theorem countRx_fill (s : State) : (countRx s).fill = s.fill := rfl
@[simp] theorem countRx_peak (s : State) : (countRx s).peak = s.peak := rfl
@[simp] theorem countRx_ovfCount (s : State) : (countRx s).ovfCount = s.ovfCount := rfl
@[simp] theorem countRx_ovf (s : State) : (countRx s).ovf = s.ovf := rfl
@[simp] theorem countRx_ill (s : State) : (countRx s).ill = s.ill := rfl
@[simp] theorem countRx_txCount (s : State) : (countRx s).txCount = s.txCount := rfl
@[simp] theorem countRx_rxCount (s : State) : (countRx s).rxCount = s.rxCount + 1 := rfl
@[simp] theorem countRx_errCount (s : State) : (countRx s).errCount = s.errCount := rfl
@[simp] theorem countRx_csumErrCount (s : State) : (countRx s).csumErrCount = s.csumErrCount := rfl
@[simp] theorem countRx_result (s : State) : (countRx s).result = s.result := rfl
@[simp] theorem countRx_cause (s : State) : (countRx s).cause = s.cause := rfl
@[simp] theorem countRx_pktCode (s : State) : (countRx s).pktCode = s.pktCode := rfl
@[simp] theorem countRx_pktSeq (s : State) : (countRx s).pktSeq = s.pktSeq := rfl
@[simp] theorem countRx_pktLen (s : State) : (countRx s).pktLen = s.pktLen := rfl
@[simp] theorem countRx_pktPayload (s : State) : (countRx s).pktPayload = s.pktPayload := rfl
@[simp] theorem countRx_txCode (s : State) : (countRx s).txCode = s.txCode := rfl
@[simp] theorem countRx_txSeq (s : State) : (countRx s).txSeq = s.txSeq := rfl
@[simp] theorem countRx_txLen (s : State) : (countRx s).txLen = s.txLen := rfl
@[simp] theorem countRx_txPayload (s : State) : (countRx s).txPayload = s.txPayload := rfl
@[simp] theorem countRx_txout (s : State) : (countRx s).txout = s.txout := rfl
@[simp] theorem countRx_resets (s : State) : (countRx s).resets = s.resets := rfl
@[simp] theorem countRx_inputs (s : State) : (countRx s).inputs = s.inputs := rfl
@[simp] theorem countRx_responses (s : State) : (countRx s).responses = s.responses := rfl

/-! ## countTx -/

@[simp] theorem countTx_cfg (s : State) : (countTx s).cfg = s.cfg := rfl
@[simp] theorem countTx_rxbuf (s : State) : (countTx s).rxbuf = s.rxbuf := rfl
@[simp] theorem countTx_rd (s : State) : (countTx s).rd = s.rd := rfl
@[simp] theorem countTx_wr (s : State) : (countTx s).wr = s.wr := rfl
@[simp] theorem countTx_fill (s : State) : (countTx s).fill = s.fill := rfl
@[simp] theorem countTx_peak (s : State) : (countTx s).peak = s.peak := rfl
@[simp] theorem countTx_ovfCount (s : State) : (countTx s).ovfCount = s.ovfCount := rfl
@[simp] theorem countTx_ovf (s : State) : (countTx s).ovf = s.ovf := rfl
@[simp] theorem countTx_ill (s : State) : (countTx s).ill = s.ill := rfl
@[simp] theorem countTx_txCount (s : State) : (countTx s).txCount = s.txCount + 1 := rfl
@[simp] theorem countTx_rxCount (s : State) : (countTx s).rxCount = s.rxCount := rfl
@[simp] theorem countTx_errCount (s : State) : (countTx s).errCount = s.errCount := rfl
@[simp] theorem countTx_csumErrCount (s : State) : (countTx s).csumErrCount = s.csumErrCount := rfl
@[simp] theorem countTx_result (s : State) : (countTx s).result = s.result := rfl
@[simp] theorem countTx_cause (s : State) : (countTx s).cause = s.cause := rfl
@[simp] theorem countTx_pktCode (s : State) : (countTx s).pktCode = s.pktCode := rfl
@[simp] theorem countTx_pktSeq (s : State) : (countTx s).pktSeq = s.pktSeq := rfl
@[simp] theorem countTx_pktLen (s : State) : (countTx s).pktLen = s.pktLen := rfl
@[simp] theorem countTx_pktPayload (s : State) : (countTx s).pktPayload = s.pktPayload := rfl
@[simp] theorem countTx_txCode (s : State) : (countTx s).txCode = s.txCode := rfl
@[simp] theorem countTx_txSeq (s : State) : (countTx s).txSeq = s.txSeq := rfl
@[simp] theorem countTx_txLen (s : State) : (countTx s).txLen = s.txLen := rfl
@[simp] theorem countTx_txPayload (s : State) : (countTx s).txPayload = s.txPayload := rfl
@[simp] theorem countTx_txout (s : State) : (countTx s).txout = s.txout := rfl
@[simp] theorem countTx_resets (s : State) : (countTx s).resets = s.resets := rfl
@[simp] theorem countTx_inputs (s : State) : (countTx s).inputs = s.inputs := rfl
@[simp] theorem countTx_responses (s : State) : (countTx s).responses = s.responses := rfl

/-! ## acceptPacket -/

@[simp] theorem acceptPacket_cfg (L : Nat) (s : State) : (acceptPacket L s).cfg = s.cfg := rfl
@[simp] theorem acceptPacket_rxbuf (L : Nat) (s : State) : (acceptPacket L s).rxbuf = s.rxbuf := rfl
@[simp] theorem acceptPacket_rd (L : Nat) (s : State) : (acceptPacket L s).rd = (s.rd + (headerSize + L + footerSize)) % s.cfg.rxCapacity := rfl
@[simp] theorem acceptPacket_wr (L : Nat) (s : State) : (acceptPacket L s).wr = s.wr := rfl
@[simp] theorem acceptPacket_fill (L : Nat) (s : State) : (acceptPacket L s).fill = s.fill - (headerSize + L + footerSize) := rfl
@[simp] theorem acceptPacket_peak (L : Nat) (s : State) : (acceptPacket L s).peak = s.peak := rfl
@[simp] theorem acceptPacket_ovfCount (L : Nat) (s : State) : (acceptPacket L s).ovfCount = s.ovfCount := rfl
@[simp] theorem acceptPacket_ovf (L : Nat) (s : State) : (acceptPacket L s).ovf = s.ovf := rfl
@[simp] theorem acceptPacket_ill (L : Nat) (s : State) : (acceptPacket L s).ill = s.ill := rfl
@[simp] theorem acceptPacket_txCount (L : Nat) (s : State) : (acceptPacket L s).txCount = s.txCount := rfl
@[simp] theorem acceptPacket_rxCount (L : Nat) (s : State) : (acceptPacket L s).rxCount = s.rxCount + 1 := rfl
@[simp] theorem acceptPacket_errCount (L : Nat) (s : State) : (acceptPacket L s).errCount = s.errCount := rfl
@[simp] theorem acceptPacket_csumErrCount (L : Nat) (s : State) : (acceptPacket L s).csumErrCount = s.csumErrCount := rfl
@[simp] theorem acceptPacket_result (L : Nat) (s : State) : (acceptPacket L s).result = s.result := rfl
@[simp] theorem acceptPacket_cause (L : Nat) (s : State) : (acceptPacket L s).cause = s.cause := rfl
@[simp] theorem acceptPacket_pktCode (L : Nat) (s : State) : (acceptPacket L s).pktCode = ringByte s 1 := rfl
@[simp] theorem acceptPacket_pktSeq (L : Nat) (s : State) : (acceptPacket L s).pktSeq = ringByte s 4 := rfl
@[simp] theorem acceptPacket_pktLen (L : Nat) (s : State) : (acceptPacket L s).pktLen = BitVec.ofNat 16 L := rfl
@[simp] theorem acceptPacket_pktPayload (L : Nat) (s : State) : (acceptPacket L s).pktPayload = Memory.storeAll s.pktPayload 0 (ringBytes s 5 L) := rfl
@[simp] theorem acceptPacket_txCode (L : Nat) (s : State) : (acceptPacket L s).txCode = s.txCode := rfl
@[simp] theorem acceptPacket_txSeq (L : Nat) (s : State) : (acceptPacket L s).txSeq = s.txSeq := rfl
@[simp] theorem acceptPacket_txLen (L : Nat) (s : State) : (acceptPacket L s).txLen = s.txLen := rfl
@[simp] theorem acceptPacket_txPayload (L : Nat) (s : State) : (acceptPacket L s).txPayload = s.txPayload := rfl
@[simp] theorem acceptPacket_txout (L : Nat) (s : State) : (acceptPacket L s).txout = s.txout := rfl
@[simp] theorem acceptPacket_resets (L : Nat) (s : State) : (acceptPacket L s).resets = s.resets := rfl
@[simp] theorem acceptPacket_inputs (L : Nat) (s : State) : (acceptPacket L s).inputs = s.inputs := rfl
@[simp] theorem acceptPacket_responses (L : Nat) (s : State) : (acceptPacket L s).responses = s.responses := rfl

end Sys2Proof.Machine
end

