-- ==== Sys2Proof/Laws/Ring.lean ====
section
/-! SUPPORT. The ring's primitives in terms of the live bytes (40_receive_buffer.md R71 to R76): what STORE and DROP do
to them, that both keep the ring's invariant, and what PUSH_PRIM and RX_ARRIVE can do. -/

namespace Sys2Proof.Machine

/-! ## What the byte views depend on -/

theorem slot_congr {s t : State} (hb : t.rxbuf = s.rxbuf) (hr : t.resets = s.resets) (j : Nat) :
    slot t j = slot s j := by
  simp only [slot, hb, hr]

theorem pktByte_congr {s t : State} (hb : t.pktPayload = s.pktPayload) (hr : t.resets = s.resets) (i : Nat) :
    pktByte t i = pktByte s i := by
  simp only [pktByte, hb, hr]

theorem txByte_congr {s t : State} (hb : t.txPayload = s.txPayload) (hr : t.resets = s.resets) (i : Nat) :
    txByte t i = txByte s i := by
  simp only [txByte, hb, hr]

/-- The live bytes depend only on RXBUF, RD, FILL, the capacity and the draw number. -/
theorem live_congr {s t : State} (hb : t.rxbuf = s.rxbuf) (hr : t.resets = s.resets) (hd : t.rd = s.rd)
    (hf : t.fill = s.fill) (hc : t.cfg = s.cfg) : live t = live s := by
  simp only [live, hf]
  refine List.map_congr_left fun i _ => ?_
  simp only [ringByte, slot, hb, hr, hd, hc]

/-! ## The live bytes -/

@[simp] theorem live_length (s : State) : (live s).length = s.fill := by simp [live]

theorem live_getElem? (s : State) (i : Nat) (h : i < s.fill) : (live s)[i]? = some (ringByte s i) := by
  simp [live, h]

theorem live_getD (s : State) (i : Nat) (h : i < s.fill) (d : Byte) : (live s).getD i d = ringByte s i := by
  simp [List.getD, live_getElem? s i h]

theorem live_eq_nil {s : State} : live s = [] ↔ s.fill = 0 := by
  rw [← List.length_eq_zero_iff, live_length]

/-- After dropping k bytes, `RB(i)` is the old `RB(k + i)` (R73). -/
theorem ringByte_dropOldest (s : State) (k i : Nat) : ringByte (dropOldest k s) i = ringByte s (k + i) := by
  show slot (dropOldest k s) _ = slot s _
  rw [slot_congr (s := s) (t := dropOldest k s) rfl rfl]
  congr 1
  show ((s.rd + k) % s.cfg.rxCapacity + i) % s.cfg.rxCapacity = _
  rw [Nat.mod_add_mod, Nat.add_assoc]

/-- DROP removes the k oldest bytes (R73). -/
theorem live_dropOldest (s : State) (k : Nat) : live (dropOldest k s) = (live s).drop k := by
  refine List.ext_getElem? fun i => ?_
  rw [List.getElem?_drop]
  by_cases h : i < s.fill - k
  · rw [live_getElem? _ _ (by simpa using h), live_getElem? _ _ (by omega), ringByte_dropOldest]
  · rw [List.getElem?_eq_none (by simp; omega), List.getElem?_eq_none (by simp; omega)]

theorem slot_storeByte (s : State) (b : Byte) (j : Nat) :
    slot (storeByte b s) j = if j = s.wr then b else slot s j := by
  show ((Memory.cellAt (Memory.store s.rxbuf s.wr b) j).getD _) = _
  rw [Memory.cellAt_store]
  split <;> rfl

/-- Two ring indexes less than a capacity apart name different slots. -/
theorem ring_index_ne {r i j c : Nat} (hij : i < j) (hj : j < c + i) : (r + i) % c ≠ (r + j) % c := by
  intro h
  obtain ⟨d, rfl⟩ : ∃ d, j = i + d := ⟨j - i, by omega⟩
  have hmod : d % c = 0 := by
    have h' : (r + i) % c = (r + i + d) % c := by rw [h, Nat.add_assoc]
    have hz := Nat.sub_mod_eq_zero_of_mod_eq h'.symm
    rwa [Nat.add_sub_cancel_left] at hz
  rw [Nat.mod_eq_of_lt (by omega)] at hmod
  omega

/-- STORE with room appends its byte to the live bytes (R72). -/
theorem live_storeByte {s : State} (h : RingInv s) (hf : s.fill < s.cfg.rxCapacity) (b : Byte) :
    live (storeByte b s) = live s ++ [b] := by
  obtain ⟨-, -, -, -, hwr, -, -⟩ := h
  refine List.ext_getElem? fun i => ?_
  rcases Nat.lt_trichotomy i s.fill with hi | rfl | hi
  · rw [List.getElem?_append_left (by simpa using hi), live_getElem? _ _ hi, live_getElem? _ _ (by simp; omega)]
    show some (slot (storeByte b s) _) = some (slot s _)
    rw [slot_storeByte, if_neg]
    · rfl
    show (s.rd + i) % s.cfg.rxCapacity ≠ s.wr
    rw [hwr]
    exact ring_index_ne hi (by omega)
  · rw [live_getElem? _ _ (by simp), List.getElem?_append_right (by simp)]
    show some (slot (storeByte b s) _) = _
    rw [slot_storeByte, if_pos (by rw [hwr]; rfl)]
    simp
  · rw [List.getElem?_eq_none (by simp; omega), List.getElem?_eq_none (by simp; omega)]

/-! ## The ring's invariant -/

/-- The ring's invariant depends on the ring's fields and the configuration alone. -/
theorem RingInv.congr {s t : State} (h : RingInv s) (hc : t.cfg = s.cfg) (hrd : t.rd = s.rd) (hwr : t.wr = s.wr)
    (hf : t.fill = s.fill) (hp : t.peak = s.peak) : RingInv t := by
  simpa only [RingInv, hc, hrd, hwr, hf, hp] using h

theorem RingInv.dropOldest {s : State} (h : RingInv s) {k : Nat} (hk : k ≤ s.fill) : RingInv (dropOldest k s) := by
  obtain ⟨hc, hrd, hwr, hf, he, hp, hp'⟩ := h
  refine ⟨hc, Nat.mod_lt _ (by omega), hwr, ?_, ?_, ?_, hp'⟩
  · simp; omega
  · simp only [dropOldest_wr, dropOldest_rd, dropOldest_fill, dropOldest_cfg, Nat.mod_add_mod, he]
    congr 1
    omega
  · simp; omega

theorem RingInv.storeByte {s : State} (h : RingInv s) (hf : s.fill < s.cfg.rxCapacity) (b : Byte) :
    RingInv (storeByte b s) := by
  obtain ⟨hc, hrd, hwr, -, he, hp, hp'⟩ := h
  refine ⟨hc, hrd, Nat.mod_lt _ (by omega), ?_, ?_, ?_, ?_⟩
  · show s.fill + 1 ≤ s.cfg.rxCapacity
    omega
  · simp only [storeByte_wr, storeByte_rd, storeByte_fill, storeByte_cfg, he, Nat.mod_add_mod, Nat.add_assoc]
  · simp
  · simp; omega

theorem RingInv.clearRing {s : State} (h : RingInv s) : RingInv (clearRing s) := by
  obtain ⟨hc, hrd, hwr, hf, he, hp, hp'⟩ := h
  refine ⟨hc, ?_, ?_, ?_, ?_, ?_, hp'⟩ <;> simp <;> omega

/-! ## PUSH_PRIM and RX_ARRIVE -/

/-- PUSH_PRIM stores its byte, or on a full ring rejects it (R74). -/
theorem pushPrim_cases (b : Byte) (s : State) :
    (s.fill = s.cfg.rxCapacity ∧ pushPrim b s = (false, rejectPush s)) ∨
      (s.fill ≠ s.cfg.rxCapacity ∧ pushPrim b s = (true, storeByte b s)) := by
  by_cases h : s.fill = s.cfg.rxCapacity
  · exact .inl ⟨h, by simp [pushPrim, h]⟩
  · exact .inr ⟨h, by simp [pushPrim, h]⟩

/-- RX_ARRIVE stores its byte, on a full ring after counting one rejected push and dropping a chunk (R75). -/
theorem rxArrive_cases (b : Byte) (s : State) :
    (s.fill = s.cfg.rxCapacity ∧ rxArrive b s =
        (min s.cfg.ovfChunk s.fill, storeByte b (dropOldest (min s.cfg.ovfChunk s.fill) (rejectPush s)))) ∨
      (s.fill ≠ s.cfg.rxCapacity ∧ rxArrive b s = (0, storeByte b s)) := by
  rcases pushPrim_cases b s with ⟨h, e⟩ | ⟨h, e⟩
  · exact .inl ⟨h, by simp only [rxArrive, e]; rfl⟩
  · exact .inr ⟨h, by simp only [rxArrive, e]⟩

/-- The number evicted from a full ring is OVF_CHUNK (R75). -/
theorem evicted_eq_chunk {s : State} (h : RingInv s) (hf : s.fill = s.cfg.rxCapacity) :
    min s.cfg.ovfChunk s.fill = s.cfg.ovfChunk := by
  obtain ⟨⟨-, -, -, -, -, hle, -⟩, -⟩ := h
  omega

theorem RingInv.rejectPush {s : State} (h : RingInv s) : RingInv (rejectPush s) := h

/-- An arrival keeps the ring's invariant, with or without an eviction (R20, R75). -/
theorem RingInv.rxArrive {s : State} (h : RingInv s) (b : Byte) : RingInv (rxArrive b s).2 := by
  rcases rxArrive_cases b s with ⟨hf, e⟩ | ⟨hf, e⟩
  · rw [e, evicted_eq_chunk h hf]
    obtain ⟨⟨-, -, -, -, hpos, hle, -⟩, -⟩ := id h
    refine RingInv.storeByte (RingInv.dropOldest h.rejectPush (by simp; omega)) (by simp; omega) b
  · rw [e]
    exact h.storeByte (by have := h.2.2.2.1; omega) b

/-- The live bytes after an arrival into a full ring: a chunk of the oldest gone, the new byte last (R75). -/
theorem live_rxArrive_full {s : State} (h : RingInv s) (hf : s.fill = s.cfg.rxCapacity) (b : Byte) :
    live (rxArrive b s).2 = (live s).drop s.cfg.ovfChunk ++ [b] := by
  rcases rxArrive_cases b s with ⟨-, e⟩ | ⟨hf', -⟩
  · rw [e, evicted_eq_chunk h hf]
    obtain ⟨⟨-, -, -, -, hpos, hle, -⟩, -⟩ := id h
    rw [live_storeByte (RingInv.dropOldest h.rejectPush (by simp; omega)) (by simp; omega), live_dropOldest,
      live_congr (s := s) (t := rejectPush s) rfl rfl rfl rfl rfl]
  · exact absurd hf hf'

/-- The live bytes after an arrival with room (R75). -/
theorem live_rxArrive_room {s : State} (h : RingInv s) (hf : s.fill < s.cfg.rxCapacity) (b : Byte) :
    live (rxArrive b s).2 = live s ++ [b] := by
  rcases rxArrive_cases b s with ⟨hf', -⟩ | ⟨-, e⟩
  · omega
  · rw [e, live_storeByte h hf]

end Sys2Proof.Machine
end

