-- ==== Sys2Proof/Laws/Wire.lean ====
section
/-! SUPPORT. The wire's arithmetic: the checksum as an XOR over a list (42_checksum.md R102, R104), the length bytes
(30_encoding.md R64), the frame's size (R65), and what the emissions of ENCODE append (43_transmit_encoder.md R107). -/

namespace Sys2Proof.Machine

/-! ## XOR over lists -/

@[simp] theorem xorAll_nil : xorAll [] = 0 := rfl

@[simp] theorem xorAll_cons (b : Byte) (bs : List Byte) : xorAll (b :: bs) = b ^^^ xorAll bs := rfl

theorem xorAll_append (as bs : List Byte) : xorAll (as ++ bs) = xorAll as ^^^ xorAll bs := by
  induction as with
  | nil => simp
  | cons a as ih => simp [ih, BitVec.xor_assoc]

theorem foldl_xor (c : Byte) (bs : List Byte) : bs.foldl (fun c p => c ^^^ p) c = c ^^^ xorAll bs := by
  induction bs generalizing c with
  | nil => simp
  | cons b bs ih => simp [ih, BitVec.xor_assoc]

/-- CSUM is the XOR of the covered bytes (R102). -/
theorem csum_eq_xorAll (code lo hi seq : Byte) (ps : List Byte) :
    csum code lo hi seq ps = xorAll ([code, lo, hi, seq] ++ ps) := by
  simp [csum, foldl_xor, BitVec.xor_assoc]

/-! ## The length bytes -/

/-- The length two bytes declare, low byte first (R64). -/
theorem lengthOf_toNat (lo hi : Byte) : (lengthOf lo hi).toNat = lo.toNat + 256 * hi.toNat := by
  have hl := lo.isLt
  have hh := hi.isLt
  simp only [lengthOf, BitVec.toNat_or, BitVec.toNat_setWidth, BitVec.toNat_shiftLeft, Nat.shiftLeft_eq]
  rw [Nat.mod_eq_of_lt (by omega : lo.toNat < 2 ^ 16), Nat.mod_eq_of_lt (by omega : hi.toNat < 2 ^ 16),
    Nat.mod_eq_of_lt (by omega : hi.toNat * 2 ^ 8 < 2 ^ 16), Nat.or_comm, Nat.mul_comm, ← Nat.two_pow_add_eq_or_of_lt hl]
  omega

/-- The low length byte is the length modulo 256 (R63). -/
theorem lengthLo_eq (l : Half) : lengthLo l = BitVec.ofNat 8 (l.toNat % 256) := by
  apply BitVec.eq_of_toNat_eq
  simp [lengthLo]

/-- The high length byte is the length divided by 256 (R63). -/
theorem lengthHi_eq (l : Half) : lengthHi l = BitVec.ofNat 8 (l.toNat / 256) := by
  apply BitVec.eq_of_toNat_eq
  simp [lengthHi, Nat.shiftRight_eq_div_pow]

/-! ## Frames -/

/-- A frame of payload length L has 7 + L bytes (R65). -/
@[simp] theorem wireFrame_length (code seq : Byte) (payload : List Byte) :
    (wireFrame code seq payload).length = 7 + payload.length := by
  simp [wireFrame]; omega

/-! ## Emission -/

/-- Emitting a list appends it to TXOUT and changes nothing else (R18). -/
theorem emitAll_eq (bs : List Byte) (s : State) : emitAll bs s = { s with txout := s.txout ++ bs } := by
  induction bs generalizing s with
  | nil => simp [emitAll]
  | cons b bs ih => simp [emitAll, ih, emit]

@[simp] theorem txBytes_length (s : State) (n : Nat) : (txBytes s n).length = n := by simp [txBytes]

/-- ENCODE's emissions append the frame of the TX operands, and change nothing else (R107, R109). -/
theorem emitFrame_eq (s : State) :
    emitFrame s = { s with txout := s.txout ++ wireFrame s.txCode s.txSeq (txBytes s s.txLen.toNat) } := by
  simp only [emitFrame, emitAll_eq, wireFrame, txCsum, csum_eq_xorAll, txBytes_length, lengthLo_eq, lengthHi_eq,
    startSentinel, endSentinel, List.append_assoc]

end Sys2Proof.Machine
end

