-- ==== Sys2Proof/Laws/Parser.lean ====
section
/-! SUPPORT. The parser in closed form: the scan (41_framer_parser.md R91) as a takeWhile over the live bytes, one
attempt at a frame (R92 to R97) over the live bytes, and PARSE_ONE's loop as the byte list parser of Safety.lean. -/

namespace Sys2Proof.Machine

/-! ## Drops compose -/

theorem dropOldest_zero {s : State} (h : s.rd < s.cfg.rxCapacity) : dropOldest 0 s = s := by
  simp only [dropOldest, Nat.add_zero, Nat.mod_eq_of_lt h, Nat.sub_zero]

theorem dropOldest_dropOldest (a b : Nat) (s : State) : dropOldest b (dropOldest a s) = dropOldest (a + b) s := by
  simp only [dropOldest, Nat.mod_add_mod, Nat.add_assoc, Nat.sub_sub]

/-- A ring that holds a byte: its oldest byte, then the bytes after dropping it. -/
theorem live_eq_cons {s : State} (h : 0 < s.fill) : live s = ringByte s 0 :: live (dropOldest 1 s) := by
  rw [live_dropOldest]
  have h0 := live_getElem? s 0 h
  match hl : live s, h0 with
  | b :: bs, h0 => simpa using h0

/-! ## The scan -/

/-- How many bytes a scan with `w` bytes of window left drops. -/
def scanLength (w : Nat) (bs : List Byte) : Nat := ((bs.take w).takeWhile (fun b => b != 0xAA)).length

theorem scanLength_le (w : Nat) (bs : List Byte) : scanLength w bs ≤ min w bs.length := by
  have := (List.takeWhile_sublist (fun b : Byte => b != 0xAA) (l := bs.take w)).length_le
  simpa [scanLength] using this

@[simp] theorem scanLength_zero (bs : List Byte) : scanLength 0 bs = 0 := by simp [scanLength]
@[simp] theorem scanLength_nil (w : Nat) : scanLength w [] = 0 := by simp [scanLength]

theorem scanLength_cons (w : Nat) (b : Byte) (bs : List Byte) :
    scanLength (w + 1) (b :: bs) = if b = 0xAA then 0 else scanLength w bs + 1 := by
  by_cases h : b = 0xAA
  · simp [scanLength, h]
  · rw [if_neg h, scanLength, scanLength, List.take_succ_cons, List.takeWhile_cons_of_pos (by simpa using h)]
    rfl

/-- Step 2's loop drops the noise within the window, and stands at a start byte exactly when that is not the whole
window and not the whole ring (R91). -/
theorem scanForStart_eq (n k : Nat) (s : State) (hn : s.fill = n) (hpos : 0 < n) (hk : k < s.cfg.scanWindow)
    (hrd : s.rd < s.cfg.rxCapacity) :
    scanForStart n k s =
      ⟨decide (scanLength (s.cfg.scanWindow - k) (live s) < min (s.cfg.scanWindow - k) s.fill),
        k + scanLength (s.cfg.scanWindow - k) (live s),
        dropOldest (scanLength (s.cfg.scanWindow - k) (live s)) s⟩ := by
  induction n generalizing k s with
  | zero => omega
  | succ n ih =>
    obtain ⟨w, hw⟩ : ∃ w, s.cfg.scanWindow - k = w + 1 := ⟨s.cfg.scanWindow - k - 1, by omega⟩
    rw [hw, live_eq_cons (by omega), scanLength_cons]
    simp only [scanForStart, startSentinel]
    split
    · rw [dropOldest_zero hrd, Nat.add_zero]
      congr 1
      symm
      simp
      omega
    · split
      · next hend =>
        have hz : scanLength w (live (dropOldest 1 s)) = 0 := by
          rcases hend with hz | hz
          · rw [live_eq_nil.2 hz]; simp
          · have : w = 0 := by simp at hz; omega
            rw [this]; simp
        rw [hz]
        congr 1
        symm
        simp at hend ⊢
        omega
      · next hend =>
        have hf : (dropOldest 1 s).fill = n := by simp; omega
        simp only [dropOldest_cfg, not_or] at hend
        rw [ih (k + 1) (dropOldest 1 s) hf (by omega)
          (by simp only [dropOldest_cfg]; omega)
          (Nat.mod_lt _ (by omega))]
        have hw' : (dropOldest 1 s).cfg.scanWindow - (k + 1) = w := by simp only [dropOldest_cfg]; omega
        rw [hw', dropOldest_dropOldest]
        congr 1
        · refine decide_eq_decide.2 ?_
          rw [dropOldest_fill]
          omega
        · omega
        · congr 1
          omega

/-! ## One attempt at a frame -/

/-- RB(i), …, RB(i + n - 1) are a stretch of the live bytes. -/
theorem ringBytes_eq {s : State} {i n : Nat} (h : i + n ≤ s.fill) : ringBytes s i n = ((live s).drop i).take n := by
  refine List.ext_getElem? fun j => ?_
  rw [List.getElem?_take, List.getElem?_drop]
  by_cases hj : j < n
  · rw [if_pos hj, live_getElem? _ _ (by omega)]
    simp [ringBytes, hj]
  · rw [if_neg hj, List.getElem?_eq_none]
    simpa [ringBytes] using hj

/-- The state a parse attempt leaves, in closed form, from what it gives over the live bytes. -/
def parsedState (r : WireParse) (s : State) : State :=
  { dropOldest r.dropped s with
    errCount := s.errCount +
      BitVec.ofNat 32 (r.falseStarts + if r.outcome = .npBadCsum ∨ r.outcome = .npBadEnd then 1 else 0)
    csumErrCount := s.csumErrCount + if r.outcome = .npBadCsum then 1 else 0
    rxCount := s.rxCount + if r.outcome = .packet then 1 else 0
    pktCode := (r.packet.map Packet.code).getD s.pktCode
    pktSeq := (r.packet.map Packet.seq).getD s.pktSeq
    pktLen := (r.packet.map Packet.len).getD s.pktLen
    pktPayload := (r.packet.map fun p => Memory.storeAll s.pktPayload 0 p.payload).getD s.pktPayload }

/-- The covered bytes of a frame at the ring's front, from its code byte to the end of its payload. -/
theorem covered_bytes_eq {s : State} {L : Nat} (h : 7 + L ≤ s.fill) :
    [ringByte s 1, ringByte s 2, ringByte s 3, ringByte s 4] ++ ringBytes s 5 L = ((live s).drop 1).take (4 + L) := by
  refine List.ext_getElem? fun j => ?_
  rw [List.getElem?_take, List.getElem?_drop]
  by_cases hj : j < 4 + L
  · rw [if_pos hj, live_getElem? _ _ (by omega)]
    match j with
    | 0 => rfl
    | 1 => rfl
    | 2 => rfl
    | 3 => rfl
    | j + 4 =>
      have hj' : j < L := by omega
      simp only [List.cons_append, List.nil_append, List.getElem?_cons_succ, ringBytes]
      rw [List.getElem?_map, List.getElem?_range hj']
      simp only [Option.map_some, Option.some.injEq]
      congr 1
      omega
  · rw [if_neg hj, List.getElem?_eq_none]
    simp [ringBytes]
    omega

/-- Steps 7 and 8 over the live bytes (R95 to R97). -/
theorem validateFrame_eq {s : State} {L : Nat} (hL : 7 + L ≤ s.fill) :
    validateFrame L s =
      .done (wireFrameAt 0 L (live s)).outcome (wireFrameAt 0 L (live s)).dropped
        (parsedState (wireFrameAt 0 L (live s)) s) := by
  have hlen : ¬ (live s).length < 7 + L := by simp; omega
  have h5 := live_getD s (5 + L) (by omega) 0
  have h6 := live_getD s (6 + L) (by omega) 0
  have h1 := live_getD s 1 (by omega) 0
  have h4 := live_getD s 4 (by omega) 0
  simp only [validateFrame, csum_eq_xorAll, covered_bytes_eq hL, endSentinel, wireFrameAt, if_neg hlen, h5, h6, h1, h4,
    Nat.zero_add]
  split
  · simp [parsedState, dropOldest, countErr, countCsumErr]
  · split
    · simp [parsedState, dropOldest, countErr]
    · have hT : headerSize + L + footerSize = 7 + L := by simp only [headerSize, footerSize]; omega
      simp [parsedState, acceptPacket, countRx, dropOldest, hT, ringBytes_eq (s := s) (i := 5) (n := L) (by omega)]

/-- Steps 3 to 8 over the live bytes, from a start byte with a whole header (R92 to R97). -/
theorem attemptFrame_eq {s : State} (h5 : 5 ≤ s.fill) (hrd : s.rd < s.cfg.rxCapacity) :
    let L := ((live s).getD 2 0).toNat + 256 * ((live s).getD 3 0).toNat
    attemptFrame s =
      if L > 512 then .again 1 (dropOldest 1 (countErr s))
      else .done (wireFrameAt 0 L (live s)).outcome (wireFrameAt 0 L (live s)).dropped
        (parsedState (wireFrameAt 0 L (live s)) s) := by
  intro L
  have hLe : (lengthOf (ringByte s 2) (ringByte s 3)).toNat = L := by
    rw [lengthOf_toNat, ← live_getD s 2 (by omega) 0, ← live_getD s 3 (by omega) 0]
  simp only [attemptFrame, hLe, maxPayload]
  split
  · rfl
  · have hT : headerSize + L + footerSize = 7 + L := by simp only [headerSize, footerSize]; omega
    rw [hT]
    split
    · next hlt =>
      have hw : wireFrameAt 0 L (live s) = ⟨.npIncomplete, 0, 0, none⟩ := by
        simp only [wireFrameAt, live_length, if_pos hlt]
      rw [hw]
      simp [parsedState, dropOldest, Nat.mod_eq_of_lt hrd]
    · exact validateFrame_eq (by omega)

/-! ## The loop -/

/-- More noise in front only adds to the bytes dropped. -/
theorem wireFrameAt_dropped (j L : Nat) (bs : List Byte) :
    wireFrameAt j L bs = { wireFrameAt 0 L bs with dropped := j + (wireFrameAt 0 L bs).dropped } := by
  simp only [wireFrameAt]
  split
  · rfl
  · split
    · simp
    · split
      · simp
      · simp

theorem wireFrameAt_dropped_le (L : Nat) (bs : List Byte) : (wireFrameAt 0 L bs).dropped ≤ bs.length := by
  simp only [wireFrameAt]
  repeat' split
  all_goals simp only
  all_goals omega

/-- Closing the books over a drop: a parse's result after `j` bytes of noise were dropped. -/
theorem parsedState_addDropped (j : Nat) (r : WireParse) (s : State) :
    parsedState r (dropOldest j s) = parsedState { r with dropped := j + r.dropped } s := by
  simp only [parsedState, dropOldest_dropOldest]
  rfl

/-- A counted false start is one more in the parse's result. -/
theorem parsedState_falseStart (r : WireParse) (s : State) :
    parsedState r (dropOldest 1 (countErr s)) =
      parsedState { r with dropped := 1 + r.dropped, falseStarts := r.falseStarts + 1 } s := by
  rw [parsedState_addDropped]
  simp only [parsedState, dropOldest, countErr, State.mk.injEq, true_and, and_true]
  rw [BitVec.add_assoc]
  congr 1
  apply BitVec.eq_of_toNat_eq
  simp [BitVec.toNat_add]
  omega

/-- PARSE_ONE's loop is the byte list parser over the live bytes (R88, R90 to R98). -/
theorem parseLoop_eq (n d : Nat) (s : State) (h : RingInv s) (hn : s.fill < n) :
    (wireParse s.cfg.scanWindow n (live s)).dropped ≤ s.fill ∧
    parseLoop n d s =
      ((wireParse s.cfg.scanWindow n (live s)).outcome, d + (wireParse s.cfg.scanWindow n (live s)).dropped,
        parsedState (wireParse s.cfg.scanWindow n (live s)) s) := by
  induction n generalizing d s with
  | zero => omega
  | succ n ih =>
    have hrd := h.2.1
    have hcap : 0 < s.cfg.rxCapacity := by have := h.1.1; omega
    have hW : 1 ≤ s.cfg.scanWindow := h.1.2.2.1
    simp only [parseLoop, parsePass, headerSize]
    by_cases h5 : s.fill < 5
    · have hw : wireParse s.cfg.scanWindow (n + 1) (live s) = ⟨.npShort, 0, 0, none⟩ := by
        simp only [wireParse, live_length, if_pos h5]
      rw [if_pos h5, hw]
      simp [parsedState, dropOldest, Nat.mod_eq_of_lt hrd]
    · rw [if_neg h5, scanForStart_eq _ 0 s rfl (by omega) (by omega) hrd]
      simp only [Nat.sub_zero, Nat.zero_add]
      have hle := scanLength_le s.cfg.scanWindow (live s)
      rw [live_length] at hle
      generalize hj : scanLength s.cfg.scanWindow (live s) = j at hle
      have hjw : ((live s).take s.cfg.scanWindow |>.takeWhile (fun b => b != 0xAA)).length = j := hj
      have hw : wireParse s.cfg.scanWindow (n + 1) (live s) =
          if j = min s.cfg.scanWindow s.fill then ⟨.npNoStart, j, 0, none⟩
          else if s.fill - j < 5 then ⟨.npShort, j, 0, none⟩
          else
            let L := ((live (dropOldest j s)).getD 2 0).toNat + 256 * ((live (dropOldest j s)).getD 3 0).toNat
            if L > 512 then
              let r := wireParse s.cfg.scanWindow n (live (dropOldest 1 (dropOldest j s)))
              ⟨r.outcome, j + 1 + r.dropped, r.falseStarts + 1, r.packet⟩
            else wireFrameAt j L (live (dropOldest j s)) := by
        simp only [wireParse, live_length, if_neg h5, hjw, List.length_drop, live_dropOldest]
      rw [hw]
      by_cases hmin : j = min s.cfg.scanWindow s.fill
      · rw [if_pos hmin, if_pos (by simp; omega)]
        refine ⟨by simp only; omega, ?_⟩
        simp [parsedState, dropOldest]
      · have hfound : decide (j < min s.cfg.scanWindow s.fill) = true := decide_eq_true (by omega)
        rw [if_neg hmin, hfound, if_neg (show ¬ true = false by decide)]
        by_cases hs : s.fill - j < 5
        · rw [if_pos hs, if_pos (show (dropOldest j s).fill < headerSize from hs)]
          refine ⟨by simp only; omega, ?_⟩
          simp [parsedState, dropOldest]
        · rw [if_neg hs, if_neg (show ¬ (dropOldest j s).fill < headerSize from hs)]
          have hinv : RingInv (dropOldest j s) := h.dropOldest (by omega)
          rw [attemptFrame_eq (by simp; omega) hinv.2.1]
          simp only
          by_cases hL : ((live (dropOldest j s)).getD 2 0).toNat + 256 * ((live (dropOldest j s)).getD 3 0).toNat > 512
          · rw [if_pos hL, if_pos hL]
            simp only [PassResult.addDropped]
            have hinv1 : RingInv (dropOldest 1 (countErr (dropOldest j s))) :=
              RingInv.dropOldest (s := countErr (dropOldest j s)) hinv (by simp; omega)
            have hlive : live (dropOldest 1 (countErr (dropOldest j s))) = live (dropOldest 1 (dropOldest j s)) :=
              live_congr rfl rfl rfl rfl rfl
            have := ih (d + (j + 1)) _ hinv1 (by simp; omega)
            rw [hlive] at this
            simp only [dropOldest_cfg, countErr_cfg, dropOldest_fill, countErr_fill] at this
            refine ⟨by show j + 1 + _ ≤ s.fill; omega, ?_⟩
            rw [this.2, parsedState_falseStart, parsedState_addDropped]
            simp only [Nat.add_assoc]
          · rw [if_neg hL, if_neg hL]
            simp only [PassResult.addDropped]
            have hle' := wireFrameAt_dropped_le
              (((live (dropOldest j s)).getD 2 0).toNat + 256 * ((live (dropOldest j s)).getD 3 0).toNat)
              (live (dropOldest j s))
            rw [live_length, dropOldest_fill] at hle'
            rw [wireFrameAt_dropped j]
            refine ⟨by simp only; omega, ?_⟩
            rw [parsedState_addDropped]

/-- PARSE in closed form: the parse attempt over the live bytes, then finish (R89). -/
theorem execParse_eq {s : State} (h : RingInv s) :
    (parseBytes s.cfg.scanWindow (live s)).dropped ≤ s.fill ∧
    execParse s = .next (finish (parseBytes s.cfg.scanWindow (live s)).outcome.cause
      (BitVec.ofNat 32 (parseBytes s.cfg.scanWindow (live s)).dropped)
      (parsedState (parseBytes s.cfg.scanWindow (live s)) s)) := by
  have := parseLoop_eq (s.fill + 1) 0 s h (by omega)
  simp only [execParse, parseOne, parseBytes, live_length]
  refine ⟨this.1, ?_⟩
  rw [this.2]
  simp

end Sys2Proof.Machine
end

