-- ==== Sys2Proof/Laws/Exec.lean ====
section
/-! SUPPORT. What each command does, said once: the state it answers as named updates of the state it starts from
(40_receive_buffer.md R77 to R86, 41_framer_parser.md R89, 42_checksum.md R106, 43_transmit_encoder.md R107). -/

namespace Sys2Proof.Machine

theorem exec_push_full {s : State} (h : s.fill = s.cfg.rxCapacity) (b : Byte) :
    exec (.push b) s = .next (finish .full 0 (rejectPush s)) := by
  show execPush b s = _
  simp [execPush, pushPrim, h]

theorem exec_push_room {s : State} (h : s.fill ≠ s.cfg.rxCapacity) (b : Byte) :
    exec (.push b) s = .next (finish .ok 1 (storeByte b s)) := by
  show execPush b s = _
  simp [execPush, pushPrim, h]

theorem exec_pop_empty {s : State} (h : s.fill = 0) : exec .pop s = .next (finish .empty 0 s) := by
  show execPop s = _
  simp [execPop, h]

theorem exec_pop_some {s : State} (h : s.fill ≠ 0) :
    exec .pop s = .next (finish .ok ((ringByte s 0).setWidth 32) (dropOldest 1 s)) := by
  show execPop s = _
  simp [execPop, h]

theorem exec_peek_empty {s : State} (h : s.fill = 0) : exec .peek s = .next (finish .empty 0 s) := by
  show execPeek s = _
  simp [execPeek, h]

theorem exec_peek_some {s : State} (h : s.fill ≠ 0) :
    exec .peek s = .next (finish .ok ((ringByte s 0).setWidth 32) s) := by
  show execPeek s = _
  simp [execPeek, h]

theorem exec_peekAt_range {s : State} {n : Half} (h : s.fill ≤ n.toNat) :
    exec (.peekAt n) s = .next (finish .range 0 s) := by
  show execPeekAt n s = _
  rw [execPeekAt, if_pos h]

theorem exec_peekAt_some {s : State} {n : Half} (h : n.toNat < s.fill) :
    exec (.peekAt n) s = .next (finish .ok ((ringByte s n.toNat).setWidth 32) s) := by
  show execPeekAt n s = _
  rw [execPeekAt, if_neg (by omega)]

theorem exec_discard (n : Half) (s : State) :
    exec (.discard n) s =
      .next (finish .ok (BitVec.ofNat 32 (min n.toNat s.fill)) (dropOldest (min n.toNat s.fill) s)) := rfl

theorem exec_available (s : State) : exec .available s = .next (finish .ok (BitVec.ofNat 32 s.fill) s) := rfl

theorem exec_free (s : State) :
    exec .free s = .next (finish .ok (BitVec.ofNat 32 (s.cfg.rxCapacity - s.fill)) s) := rfl

theorem exec_capacity (s : State) :
    exec .capacity s = .next (finish .ok (BitVec.ofNat 32 s.cfg.rxCapacity) s) := rfl

theorem exec_clear (s : State) : exec .clear s = .next (finish .ok (BitVec.ofNat 32 s.fill) (clearRing s)) := rfl

theorem exec_rxByte (b : Byte) (s : State) :
    exec (.rxByte b) s =
      .next (finish (if (rxArrive b s).1 = 0 then .ok else .evicted) (BitVec.ofNat 32 (rxArrive b s).1)
        (rxArrive b s).2) := rfl

theorem exec_parse {s : State} (h : RingInv s) :
    exec .parse s = .next (finish (parseBytes s.cfg.scanWindow (live s)).outcome.cause
      (BitVec.ofNat 32 (parseBytes s.cfg.scanWindow (live s)).dropped)
      (parsedState (parseBytes s.cfg.scanWindow (live s)) s)) := (execParse_eq h).2

theorem exec_checksum_long {s : State} (h : 512 < s.txLen.toNat) :
    exec .checksum s = .next (finish .tooLong 0 s) := by
  show execChecksum s = _
  rw [execChecksum, if_pos h]

theorem exec_checksum_ok {s : State} (h : s.txLen.toNat ≤ 512) :
    exec .checksum s = .next (finish .ok ((txCsum s).setWidth 32) s) := by
  show execChecksum s = _
  rw [execChecksum, if_neg (by simpa using h)]

theorem exec_encode_long {s : State} (h : 512 < s.txLen.toNat) :
    exec .encode s = .next (finish .tooLong 0 s) := by
  show execEncode s = _
  rw [execEncode, if_pos h]

theorem exec_encode_ok {s : State} (h : s.txLen.toNat ≤ 512) :
    exec .encode s = .next (finish .ok (BitVec.ofNat 32 (7 + s.txLen.toNat)) { s with
      txout := s.txout ++ wireFrame s.txCode s.txSeq (txBytes s s.txLen.toNat), txCount := s.txCount + 1 }) := by
  show execEncode s = _
  rw [execEncode, if_neg (by simpa using h), emitFrame_eq]
  simp only [countTx, headerSize, footerSize]
  congr 3
  omega

end Sys2Proof.Machine
end

