-- ==== Sys2Proof/Laws/PerInstr.lean ====
section
/-! SUPPORT. For every command: its word is legal by the list of 30_encoding.md R61 (the encoder is written from R57 to
R59, the check from R61). -/

namespace Sys2Proof.Laws

/-- The word of the command is a legal command word. -/
def EncodesToLegalWord.Statement (i : Instr) : Prop := (CommandWord.ofWord (Sys2Proof.encode i)).wf = true

theorem wf_of_noOperand {op : Byte} (h : operandKindOf op = some .none) :
    (CommandWord.ofWord (commandWord 0 op)).wf = true := by
  simp [CommandWord.ofWord, CommandWord.wf, h]

theorem wf_of_byteOperand {op : Byte} (b : Byte) (h : operandKindOf op = some .byte) :
    (CommandWord.ofWord (commandWord (b.setWidth 16) op)).wf = true := by
  have hb : (b.setWidth 16).extractLsb' 8 8 = 0 := by
    have := b.isLt
    apply BitVec.eq_of_toNat_eq
    rw [BitVec.extractLsb'_toNat, Nat.shiftRight_eq_div_pow, BitVec.toNat_setWidth]
    show _ % 2 ^ 8 = 0
    omega
  simp [CommandWord.ofWord, CommandWord.wf, h, hb]

theorem wf_of_countOperand {op : Byte} (n : Half) (h : operandKindOf op = some .count) :
    (CommandWord.ofWord (commandWord n op)).wf = true := by
  simp [CommandWord.ofWord, CommandWord.wf, h]

theorem EncodesToLegalWord.push (b : Byte) : EncodesToLegalWord.Statement (.push b) := wf_of_byteOperand b rfl
theorem EncodesToLegalWord.pop : EncodesToLegalWord.Statement .pop := wf_of_noOperand rfl
theorem EncodesToLegalWord.peek : EncodesToLegalWord.Statement .peek := wf_of_noOperand rfl
theorem EncodesToLegalWord.peekAt (n : Half) : EncodesToLegalWord.Statement (.peekAt n) := wf_of_countOperand n rfl
theorem EncodesToLegalWord.discard (n : Half) : EncodesToLegalWord.Statement (.discard n) := wf_of_countOperand n rfl
theorem EncodesToLegalWord.available : EncodesToLegalWord.Statement .available := wf_of_noOperand rfl
theorem EncodesToLegalWord.free : EncodesToLegalWord.Statement .free := wf_of_noOperand rfl
theorem EncodesToLegalWord.capacity : EncodesToLegalWord.Statement .capacity := wf_of_noOperand rfl
theorem EncodesToLegalWord.clear : EncodesToLegalWord.Statement .clear := wf_of_noOperand rfl
theorem EncodesToLegalWord.rxByte (b : Byte) : EncodesToLegalWord.Statement (.rxByte b) := wf_of_byteOperand b rfl
theorem EncodesToLegalWord.parse : EncodesToLegalWord.Statement .parse := wf_of_noOperand rfl
theorem EncodesToLegalWord.checksum : EncodesToLegalWord.Statement .checksum := wf_of_noOperand rfl
theorem EncodesToLegalWord.encode : EncodesToLegalWord.Statement .encode := wf_of_noOperand rfl

end Sys2Proof.Laws
end

