-- ==== Sys2Proof/Laws/Service.lean ====
section
/-! SUPPORT. What one turn does while SERVICE runs, said once per phase (30_encoding.md R70, 41_framer_parser.md R99):
the state it answers as a step of the surroundings, and where SERVICE goes on. -/

namespace Sys2Proof.Machine

/-- A step taken now leaves the steps already pending where they are. -/
theorem stepOn_eq (e : Event) (s : State) : stepOn e s = perform e s := rfl

theorem serviceTurn_rx (b : Byte) (sv : Service) (s : State) :
    serviceTurn (.rx b) sv s = .next (sv, rxPortArrival b s) := rfl

theorem serviceTurn_done {sv : Service} (h : sv.phase = .done) (s : State) :
    serviceTurn .host sv s = .next (sv, s) := by
  simp [serviceTurn, Service.access, h]

/-- PARSE is issued as a CMD write; the next access is the STATUS read. -/
theorem serviceTurn_parse {sv : Service} (h : sv.phase = .parse) {s t : State}
    (hp : exec .parse (respond .ok s) = .next t) (hr : t.responses = s.responses ++ [.ok]) :
    serviceTurn .host sv s = .next ({ sv with phase := .status, parses := sv.parses + 1 }, t) := by
  have hs : stepOn (commandStep .parse) s = .next t := hp
  simp [serviceTurn, Service.access, h, hs, hr, Service.observe]

/-- The read turns: the block is unchanged but for the response, from which SERVICE goes on. -/
theorem serviceTurn_read {sv : Service} {a : Offset} {n : AccessWidth} (h : sv.access = some (.read a n))
    (hl : legalAccess a n = true) (s : State) :
    serviceTurn .host sv s =
      .next (sv.observe (.data (memRead a n s)), respond (.data (memRead a n s)) s) := by
  have hs : stepOn (.read a n) s = .next (respond (.data (memRead a n s)) s) := by
    rw [stepOn_eq]
    simp [perform, hostRead, hl]
  simp [serviceTurn, h, hs, respond]

/-- The STATUS read decides: SERVICE exits unless CAUSE is OK. -/
theorem serviceTurn_status {sv : Service} (h : sv.phase = .status) (s : State) :
    serviceTurn .host sv s =
      .next ({ sv with phase := if (statusWord s).extractLsb' 8 4 = 0 then .header else .done },
        respond (.data (statusWord s)) s) := by
  rw [serviceTurn_read (a := 0x008) (n := .word) (by simp [Service.access, h]) (by decide)]
  simp [Service.observe, h, memRead, regionOf, regRead]

/-- The PKT_HDR read gives the packet's fields. -/
theorem serviceTurn_header {sv : Service} (h : sv.phase = .header) (s : State) :
    serviceTurn .host sv s =
      .next (sv.collect ((pktHdrWord s).extractLsb' 0 8) ((pktHdrWord s).extractLsb' 8 8)
          ((pktHdrWord s).extractLsb' 16 16) [],
        respond (.data (pktHdrWord s)) s) := by
  rw [serviceTurn_read (a := 0x02C) (n := .word) (by simp [Service.access, h]) (by decide)]
  simp [Service.observe, h, memRead, regionOf, regRead]

/-- A run of a schedule in two parts. -/
theorem serviceRun_append (ts us : List Turn) (sv sv' : Service) (s s' : State)
    (h : serviceRun ts sv s = .next (sv', s')) : serviceRun (ts ++ us) sv s = serviceRun us sv' s' := by
  induction ts generalizing sv s with
  | nil => cases h; rfl
  | cons t ts ih =>
    simp only [serviceRun, List.cons_append] at h ⊢
    split at h
    · exact ih _ _ h
    · cases h
    · cases h

end Sys2Proof.Machine
end

