-- ==== Sys2Proof/Tests/Slice0.lean ====
section
/-! SUPPORT. The model's own tests: words written out from spec/'s encodings, ill-formed terms the checks refuse, the
spec's worked vectors (95_test_vectors.md) one step at a time, and for each statement with hypotheses a concrete state
that meets them. -/

namespace Sys2Proof.Tests

open Sys2Proof.Machine

/-! ## Decoding: patterns of 30_encoding.md R59 and examples of R68 -/

theorem test_decode_push : decode 0b00000000010000010000000000000001 = .ok (.push 0x41) := by decide
theorem test_decode_pop : decode 0b00000000000000000000000000000010 = .ok .pop := by decide
theorem test_decode_peek : decode 0b00000000000000000000000000000011 = .ok .peek := by decide
theorem test_decode_peekAt : decode 0b11111111111111110000000000000100 = .ok (.peekAt 65535) := by decide
theorem test_decode_discard : decode 0b00000000000001110000000000000101 = .ok (.discard 7) := by decide
theorem test_decode_available : decode 0b00000000000000000000000000000110 = .ok .available := by decide
theorem test_decode_free : decode 0b00000000000000000000000000000111 = .ok .free := by decide
theorem test_decode_capacity : decode 0b00000000000000000000000000001000 = .ok .capacity := by decide
theorem test_decode_clear : decode 0b00000000000000000000000000001001 = .ok .clear := by decide
theorem test_decode_rxByte : decode 0b00000000101010100000000000001010 = .ok (.rxByte 0xAA) := by decide
theorem test_decode_parse : decode 0b00000000000000000000000000010000 = .ok .parse := by decide
theorem test_decode_checksum : decode 0b00000000000000000000000000100000 = .ok .checksum := by decide
theorem test_decode_encode : decode 0b00000000000000000000000000100001 = .ok .encode := by decide
theorem test_encode_examples :
    encode (.push 0x41) = 0x00410001 ∧ encode (.peekAt 3) = 0x00030004 ∧ encode (.discard 7) = 0x00070005 := by decide
theorem test_decodeTableWord : decodeTableWord 32 0x00410001 = some (.push 0x41) := by decide

/-- IL1 to IL8 of 95_test_vectors.md, with the bullet of R61 each falls under. -/
theorem test_decode_illegal :
    decode 0x00000000 = .error .unassignedOp ∧ decode 0x00000102 = .error .reservedNonzero ∧
    decode 0x00010002 = .error .operandNotTaken ∧ decode 0x01AA0001 = .error .byteOperandTooWide ∧
    decode 0x000000FF = .error .unassignedOp ∧ decode 0x00000011 = .error .unassignedOp ∧
    decode 0x0000000B = .error .unassignedOp ∧ decode 0x00010010 = .error .operandNotTaken := by decide

/-! ## Ill-formed terms, one for each check of WellFormed.lean and of Config.Legal -/

theorem smoke_unassigned_op : CommandWord.wf ⟨0x0B, 0, 0⟩ = false := by decide
theorem smoke_reserved_field : CommandWord.wf ⟨0x02, 1, 0⟩ = false := by decide
theorem smoke_operand_not_taken : CommandWord.wf ⟨0x02, 0, 1⟩ = false := by decide
theorem smoke_byte_operand_too_wide : CommandWord.wf ⟨0x01, 0, 0x1AA⟩ = false := by decide
theorem smoke_legal_word : CommandWord.wf ⟨0x01, 0, 0xFF⟩ = true := by decide
theorem smoke_asm_operand_not_taken : AsmLine.wf ⟨.POP, some 0⟩ = false := by decide
theorem smoke_asm_operand_missing : AsmLine.wf ⟨.PUSH, none⟩ = false := by decide
theorem smoke_asm_byte_too_wide : AsmLine.wf ⟨.RXBYTE, some 256⟩ = false := by decide
theorem smoke_asm_count_too_wide : AsmLine.wf ⟨.DISCARD, some 65536⟩ = false := by decide
theorem smoke_asm_text :
    ["POP 1", "PUSH", "PUSH 256", "PUSH 0x", "PUSH 0x1G", "PEEKAT 65536", "PUSH 1 2", "pop", ""].all
      (fun t => (assembleText t.toList).isNone) = true := by decide

/-- Source: R68's examples, IL10, and R59's patterns with the operand's bits filled in. -/
theorem test_asm_text :
    ["PUSH 0x41", "PEEKAT 3", "DISCARD 7", "RXBYTE 170", "PEEKAT 0xfFfF", "PARSE"].map
        (fun t => assembleText t.toList) =
      [some 0x00410001, some 0x00030004, some 0x00070005, some 0x00AA000A, some 0xFFFF0004, some 0x00000010] := by
  decide
theorem smoke_config :
    ¬ Config.Legal ⟨6, 1, 1, 0⟩ ∧ ¬ Config.Legal ⟨65536, 1, 1, 0⟩ ∧ ¬ Config.Legal ⟨7, 0, 1, 0⟩ ∧
    ¬ Config.Legal ⟨7, 65536, 1, 0⟩ ∧ ¬ Config.Legal ⟨7, 1, 0, 0⟩ ∧ ¬ Config.Legal ⟨7, 1, 8, 0⟩ ∧
    ¬ Config.Legal ⟨7, 1, 1, 1⟩ ∧ Config.Legal ⟨7, 1, 7, 0⟩ := by decide

/-! ## Helpers -/

/-- The next state, if there is one. -/
def nextOf (o : Host.Outcome State Fault Refusal) : Option State :=
  match o with
  | .next s => some s
  | .fault _ => none
  | .refused _ => none

/-- The configuration of the spec's buffer vectors: CAP 8, OVF_CHUNK 3, SCAN_WINDOW 256. -/
def c8 : Config := ⟨8, 256, 3, 0⟩

/-- CAP 16, SCAN_WINDOW 4, OVF_CHUNK 3. -/
def c16 : Config := ⟨16, 4, 3, 0⟩

/-- A state after reset whose ring holds `bs` from slot `r` on. -/
def ringAt (c : Config) (r : Nat) (bs : List Byte) : State :=
  { State.resetWith c with
    rxbuf := (bs.foldl (fun (m : Memory × Nat) b => (Memory.store m.1 (m.2 % c.rxCapacity) b, m.2 + 1)) ([], r)).1
    rd := r
    wr := (r + bs.length) % c.rxCapacity
    fill := bs.length
    peak := bs.length }

/-- A state after reset whose ring holds `bs` from slot 0 on. -/
def ring (c : Config) (bs : List Byte) : State := ringAt c 0 bs

/-- The same with steps of the surroundings pending. -/
def pending (es : List Event) (s : State) : State := { s with inputs := es }

/-- Outcome, result, fill and live bytes. -/
def seen (t : State) : Cause × Word × Nat × List Byte := (t.cause, t.result, t.fill, live t)

def full8 : State := ringAt c8 1 [1, 2, 3, 4, 5, 6, 7, 8]
def frameA : List Byte := [0xAA, 0x02, 0x00, 0x00, 0x01, 0x03, 0x55]

/-! ## Receive buffer: vectors RB1 to RB18 -/

theorem test_push : (nextOf (exec (.push 0x41) (ring c8 []))).map seen = some (.ok, 1, 1, [0x41]) := by decide
theorem test_push_full : (nextOf (exec (.push 9) full8)).map (fun t => (seen t, t.ovfCount, t.ovf)) =
    some ((.full, 0, 8, [1, 2, 3, 4, 5, 6, 7, 8]), 1, true) := by decide
theorem test_pop : (nextOf (exec .pop (ringAt c8 7 [0x10, 0x20]))).map (fun t => (seen t, t.rd)) =
    some ((.ok, 0x10, 1, [0x20]), 0) := by decide
theorem test_pop_empty : (nextOf (exec .pop (ring c8 []))).map seen = some (.empty, 0, 0, []) := by decide
theorem test_peek : (nextOf (exec .peek (ring c8 [0xAA, 1]))).map seen = some (.ok, 0xAA, 2, [0xAA, 1]) := by decide
theorem test_peekAt_wraps : (nextOf (exec (.peekAt 7) full8)).map (fun t => t.result) = some 8 := by decide
theorem test_peekAt_range : (nextOf (exec (.peekAt 8) full8)).map (fun t => (t.cause, t.result)) = some (.range, 0) := by
  decide
theorem test_discard_clamps : (nextOf (exec (.discard 5) (ring c8 [1, 2, 3]))).map seen = some (.ok, 3, 0, []) := by
  decide
theorem test_discard : (nextOf (exec (.discard 2) (ring c8 [4, 5, 6]))).map seen = some (.ok, 2, 1, [6]) := by decide
theorem test_available : (nextOf (exec .available full8)).map (fun t => t.result) = some 8 := by decide
theorem test_free : (nextOf (exec .free (ring c8 [1, 2, 3]))).map (fun t => t.result) = some 5 := by decide
theorem test_capacity : (nextOf (exec .capacity State.reset)).map (fun t => t.result) = some 0x400 := by decide
theorem test_clear : (nextOf (exec .clear (ring c8 [1, 2, 3]))).map (fun t => (seen t, t.peak)) =
    some ((.ok, 3, 0, []), 3) := by decide
theorem test_rxByte : (nextOf (exec (.rxByte 0xAA) (ring c8 []))).map seen = some (.ok, 0, 1, [0xAA]) := by decide
theorem test_rxByte_evicts : (nextOf (exec (.rxByte 9) full8)).map (fun t => (seen t, t.ovfCount, t.rd, t.wr)) =
    some ((.evicted, 3, 6, [4, 5, 6, 7, 8, 9]), 1, 4, 2) := by decide

/-! ## Framer/parser: vectors P1 to P20 -/

theorem test_parse_noise_then_frame :
    (nextOf (exec .parse (ring c16 ([0x00, 0x11] ++ frameA)))).map (fun t => (seen t, pktHdrWord t, t.rxCount)) =
      some ((.ok, 9, 0, []), 0x00000102, 1) := by decide
theorem test_parse_bad_checksum_first :
    (nextOf (exec .parse (ring c16 [0xAA, 2, 0, 0, 1, 0xFF, 0x54]))).map
        (fun t => (seen t, t.errCount, t.csumErrCount)) =
      some ((.npBadCsum, 1, 6, [2, 0, 0, 1, 0xFF, 0x54]), 1, 1) := by decide

/-! ## Checksum and encoder: vectors CS3 and EN4, CS7 and EN9 -/

/-- Payload AA 55 written, TX_HDR = 0x00022010. -/
def txState : State :=
  { State.reset with txCode := 0x10, txSeq := 0x20, txLen := 2, txPayload := [(0, 0xAA), (1, 0x55)] }

theorem test_checksum : (nextOf (exec .checksum txState)).map (fun t => (t.cause, t.result, t.txout)) =
    some (.ok, 0xCD, []) := by decide
theorem test_checksum_too_long :
    (nextOf (exec .checksum { State.reset with txLen := 513 })).map (fun t => (t.cause, t.result)) =
      some (.tooLong, 0) := by decide
theorem test_encode : (nextOf (exec .encode txState)).map (fun t => (t.result, t.txCount, t.txout)) =
    some (9, 1, [0xAA, 0x10, 0x02, 0x00, 0x20, 0xAA, 0x55, 0xCD, 0x55]) := by decide
/-- EN9: an unwritten payload byte is emitted as its free value, and the checksum is computed from it. -/
theorem test_encode_free_byte : (nextOf (exec .encode { State.reset with txLen := 1 })).map (fun t => t.txout) =
    some [0xAA, 0x00, 0x01, 0x00, 0x00, Config.freeTxByte 0 0, 0x01 ^^^ Config.freeTxByte 0 0, 0x55] := by rfl

/-! ## The bus and the step: vectors RB0, BA2 to BA15, IL1 -/

theorem test_reset_status : statusWord State.reset = 0x00000F02 := by decide
theorem test_param : regRead 0x034 (State.resetWith c8) = 0x00030100 := by decide
theorem test_bus_errors :
    legalAccess 0x038 .word = false ∧ legalAccess 0x004 .half = false ∧ legalAccess 0x000 .byte = false ∧
    legalAccess 0x402 .word = false ∧ legalAccess 0x401 .half = false ∧ legalAccess 0x800 .word = false ∧
    legalAccess 0x5FF .byte = true ∧ legalAccess 0x7FC .word = true := by decide
theorem test_word_write_bytes :
    (nextOf (step (pending [.write 0x7FC .word 0x44332211] State.reset))).map (fun t => t.txPayload) =
      some [(508, 0x11), (509, 0x22), (510, 0x33), (511, 0x44)] := by decide
theorem test_half_read :
    memRead 0x600 .half { State.reset with txPayload := [(0, 0xAA), (1, 0x55), (2, 0x99)] } = 0x55AA := by decide
theorem test_illegal_word :
    (nextOf (step (pending [commandWrite 0x00000000] full8))).map (fun t => (statusWord t, t.result, t.fill)) =
      some (0x00000514, 0, 8) := by decide
theorem test_fetch_word :
    (nextOf (step (State.reset.withFetchWord 32 0x00410001))).map seen = some (.ok, 1, 1, [0x41]) := by decide
/-- RB19: an arrival into a full ring evicts, sets OVF, and leaves CAUSE and RESULT. -/
theorem test_arrival :
    (nextOf (step (pending [.rx 9] full8))).map (fun t => (seen t, statusWord t)) =
      some ((.noCmd, 0, 6, [4, 5, 6, 7, 8, 9]), 0x00000F08) := by decide
theorem test_idle : step State.reset = .next State.reset := by rfl

/-! ## Host programs: program 4's SEND, and vector P19's two packets in one SERVICE -/

theorem test_send : (nextOf (runEvents (sendSteps 0x10 0x20 [0xAA, 0x55]) State.reset)).map (fun t => t.txout) =
    some [0xAA, 0x10, 0x02, 0x00, 0x20, 0xAA, 0x55, 0xCD, 0x55] := by decide
/-- The phase SERVICE is in, its packets and PARSE count, and the fill, if the run answers. -/
def served (o : Host.Outcome (Service × State) Fault Refusal) : Option (ServicePhase × List Packet × Nat × Nat) :=
  match o with
  | .next (sv, t) => some (sv.phase, sv.out, sv.parses, t.fill)
  | .fault _ => none
  | .refused _ => none

theorem test_service :
    served (service (ring c16 (frameA ++ [0xAA, 0x81, 1, 0, 7, 0x42, 0xC5, 0x55]))) =
      some (.done, [⟨0x02, 0x01, 0, []⟩, ⟨0x81, 0x07, 1, [0x42]⟩], 3, 0) := by decide
/-- SERVICE's accesses on an empty ring, an arrival between them: the PARSE write answered OK, then STATUS with CAUSE
NP_SHORT and EMPTY = 0, the byte having arrived (R28, R70, R90). -/
theorem test_service_accesses :
    (match serviceRun [.host, .rx 0xAA, .host] Service.start (ring c8 []) with
      | .next (sv, t) => some (sv.phase, t.responses, t.fill)
      | .fault _ => none
      | .refused _ => none) = some (.done, [.ok, .data 0x00000800], 1) := by decide

/-! ## Witnesses: for each statement with hypotheses, values that meet all of them together -/

/-- A state that meets the invariant, its ring wrapped and neither empty nor full. -/
def wrapped : State := ringAt c16 14 [1, 2, 3, 4]

theorem wrapped_inv : Inv wrapped := by decide
theorem full8_inv : Inv full8 := by decide

theorem no_command_0x102 : ¬ ∃ i, decode 0x00000102 = .ok i := by
  rintro ⟨i, h⟩
  have e : decode 0x00000102 = .error .reservedNonzero := by decide
  rw [e] at h
  cases h

theorem witness_EncodeOfDecodeIsTheWord : decode 0xFFFF0005 = .ok (.discard 0xFFFF) := by decide
theorem witness_IllegalWordsAreExactlyThoseListed :
    (¬ ∃ i, decode 0x00000102 = .ok i) ∧
      (pending [commandWrite 0x00000102] wrapped).inputs = commandWrite 0x00000102 :: [] := ⟨no_command_0x102, rfl⟩
theorem witness_AssemblerAcceptsExactlyItsOperands :
    Mnemonic.operandKind .ENCODE = .none ∧ Mnemonic.operandKind .RXBYTE = .byte ∧ (0xFF ≤ 0xFF ∧ 0xFF < 256) ∧
      Mnemonic.operandKind .DISCARD = .count ∧ (0xFFFF ≤ 0xFFFF ∧ 0xFFFF < 65536) := by decide
theorem witness_ResetStepSetsEveryResetValue :
    (pending [.reset] full8).cfg.Legal ∧ (pending [.reset] full8).inputs = .reset :: [] := by decide
theorem witness_ResetStateMeetsTheInvariant : Config.Legal ⟨7, 1, 7, 4096⟩ ∧ Config.Legal ⟨65535, 65535, 65535, 0⟩ := by
  decide
theorem witness_EveryStepKeepsTheInvariant :
    Inv (pending [.rx 9] full8) ∧ ∃ t, step (pending [.rx 9] full8) = .next t := ⟨by decide, _, rfl⟩
theorem witness_EveryCommandAndStepIsAnswered : (pending [.reset] wrapped).inputs = .reset :: [] := rfl
theorem witness_StepRunsTheDecodedCommand :
    (pending [.write 0x000 .word 0x10] wrapped).inputs = .write 0x000 .word 0x10 :: [] ∧ decode 0x10 = .ok .parse := by
  decide
theorem witness_LegalAccessesAreExactlyThoseListed :
    legalAccess 0x034 .word = true ∧ legalAccess 0x5FF .byte = true ∧ legalAccess 0x5FE .half = true ∧
      legalAccess 0x7FC .word = true := by decide
theorem witness_IllegalAccessOnlyAnswersBusError :
    legalAccess 0x038 .word = false ∧ (pending [.read 0x038 .word] wrapped).inputs = .read 0x038 .word :: [] ∧
      legalAccess 0x601 .half = false ∧
      (pending [.write 0x601 .half 5] wrapped).inputs = .write 0x601 .half 5 :: [] := by decide
theorem witness_LegalReadAnswersAndChangesNothing :
    (legalAccess 0x000 .word = true ∧ (pending [.read 0x000 .word] wrapped).inputs = .read 0x000 .word :: []) ∧
      (legalAccess 0x034 .word = true ∧ (pending [.read 0x034 .word] wrapped).inputs = .read 0x034 .word :: []) ∧
      (legalAccess 0x5FF .byte = true ∧ (pending [.read 0x5FF .byte] wrapped).inputs = .read 0x5FF .byte :: []) ∧
      (legalAccess 0x7FC .word = true ∧ (pending [.read 0x7FC .word] wrapped).inputs = .read 0x7FC .word :: []) := by
  decide
theorem witness_RegistersReadTheirState : RingInv wrapped := wrapped_inv.1
theorem witness_LegalWriteTouchesOnlyItsLocation :
    (legalAccess 0x000 .word = true ∧ (pending [.write 0x000 .word 2] wrapped).inputs = .write 0x000 .word 2 :: []) ∧
      (legalAccess 0x008 .word = true ∧ (pending [.write 0x008 .word 8] wrapped).inputs = .write 0x008 .word 8 :: []) ∧
      (legalAccess 0x030 .word = true ∧ (pending [.write 0x030 .word 8] wrapped).inputs = .write 0x030 .word 8 :: []) ∧
      (legalAccess 0x7FE .half = true ∧ (pending [.write 0x7FE .half 8] wrapped).inputs = .write 0x7FE .half 8 :: []) ∧
      (legalAccess 0x5FF .byte = true ∧
        (pending [.write 0x5FF .byte 8] wrapped).inputs = .write 0x5FF .byte 8 :: []) := by decide
theorem witness_MixedWidthAccessesSeeOneByteArray :
    (127 < 128 ∧ (pending [.write 0x7FC .word 1] wrapped).inputs =
        .write (BitVec.ofNat 12 (0x600 + 4 * 127)) .word 1 :: []) ∧
      (255 < 256 ∧ (pending [.write 0x7FE .half 1] wrapped).inputs =
        .write (BitVec.ofNat 12 (0x600 + 2 * 255)) .half 1 :: []) := by decide
theorem witness_TxHdrReadsBackAsWritten :
    (pending [.write 0x030 .word 0x02010000] wrapped).inputs = .write 0x030 .word 0x02010000 :: [] ∧
      512 < (BitVec.extractLsb' 16 16 (0x02010000 : Word)).toNat := by decide
theorem witness_WindowOffsetIsAddressLessBase : Config.Legal ⟨1024, 256, 64, 0x40000000⟩ := by decide
theorem witness_CausesAreSetAsTabled :
    RingInv full8 ∧ (nextOf (execute 0x0009000A full8)).map (fun t => t.cause) = some .evicted := by decide
theorem witness_FailingCommandsChangeOnlyTheOutcome :
    ∃ t, execute 0x00090001 full8 = .next t ∧ 1 ≤ t.cause.code.toNat ∧ t.cause.code.toNat ≤ 5 :=
  ⟨_, rfl, by decide, by decide⟩
theorem witness_PushAppendsOrIsRejected :
    (RingInv full8 ∧ full8.fill = full8.cfg.rxCapacity) ∧ RingInv wrapped ∧ wrapped.fill < wrapped.cfg.rxCapacity := by
  decide
theorem witness_PopRemovesTheOldestByte :
    (RingInv (ring c8 []) ∧ (ring c8 []).fill = 0) ∧ RingInv full8 ∧ 0 < full8.fill := by decide
theorem witness_PeekReturnsTheOldestByteAndKeepsIt : (ring c8 []).fill = 0 ∧ live wrapped = 1 :: [2, 3, 4] := by decide
theorem witness_PeekAtReturnsTheByteAtItsOffset :
    full8.fill ≤ (8 : Half).toNat ∧ (live full8)[(7 : Half).toNat]? = some 8 := by decide
theorem witness_DiscardRemovesUpToItsCount : RingInv wrapped := wrapped_inv.1
theorem witness_ReportCommandsReturnTheFillAndSpace : RingInv full8 := full8_inv.1
theorem witness_ClearEmptiesTheRingAndKeepsDiagnostics : RingInv wrapped := wrapped_inv.1
theorem witness_ArrivalIsStoredEvictingAChunkWhenFull :
    (RingInv (pending [.rx 9] full8) ∧ (pending [.rx 9] full8).inputs = .rx 9 :: [] ∧
        (pending [.rx 9] full8).fill = (pending [.rx 9] full8).cfg.rxCapacity) ∧
      RingInv (pending [.rx 9] wrapped) ∧ (pending [.rx 9] wrapped).inputs = .rx 9 :: [] ∧
        (pending [.rx 9] wrapped).fill < (pending [.rx 9] wrapped).cfg.rxCapacity := by decide
theorem witness_RxByteIsAnArrivalWithAnOutcome :
    (RingInv full8 ∧ full8.fill = full8.cfg.rxCapacity) ∧ RingInv wrapped ∧ wrapped.fill < wrapped.cfg.rxCapacity := by
  decide
theorem witness_BytesLeaveTheRingInOrder :
    RingInv full8 ∧ ∃ t, exec (.rxByte 9) full8 = .next t := ⟨full8_inv.1, _, rfl⟩
theorem witness_OnlyRejectedPushesCountOverflow :
    (∃ t, exec (.push 9) full8 = .next t) ∧ full8.fill = full8.cfg.rxCapacity ∧
      (∃ t, exec (.push 9) wrapped = .next t) ∧
      ¬ ((∃ b, Instr.push 9 = .push b ∨ Instr.push 9 = .rxByte b) ∧ wrapped.fill = wrapped.cfg.rxCapacity) :=
  ⟨⟨_, rfl⟩, rfl, ⟨_, rfl⟩, fun h => absurd h.2 (by decide)⟩
theorem witness_RingHistoryIsFirstInFirstOut :
    RingInv (ringAt c8 7 []) ∧ (ringAt c8 7 []).fill = 0 ∧
      RingUse.allowed [.store 1, .store 2, .drop 1, .store 3] (ringAt c8 7 []) :=
  ⟨by decide, rfl, by decide, by decide, by decide, by decide, trivial⟩
theorem witness_ParseAgreesWithTheByteListParser :
    RingInv (ring c16 frameA) ∧ (parseBytes 4 (live (ring c16 frameA))).packet = some ⟨2, 1, 0, []⟩ ∧
      RingInv wrapped ∧ (parseBytes 4 (live wrapped)).packet = none := by decide
theorem witness_ParseOfFewerThanFiveBytesOnlyReports : wrapped.fill < 5 := by decide
theorem witness_ScanDropsExactlyTheNoise :
    let a := ring c16 [1, 2, 3, 0xAA, 5]
    let b := ring c16 [1, 2, 3, 4, 0xAA]
    let c := ring c8 [1, 2, 3, 4, 5]
    (RingInv a ∧ 5 ≤ a.fill ∧ live a = [1, 2, 3] ++ 0xAA :: [5] ∧ isNoise [1, 2, 3] ∧
        [1, 2, 3].length < a.cfg.scanWindow ∧ a.fill - [1, 2, 3].length < 5) ∧
      (RingInv b ∧ 5 ≤ b.fill ∧ b.cfg.scanWindow ≤ b.fill ∧ isNoise ((live b).take b.cfg.scanWindow)) ∧
      (RingInv c ∧ 5 ≤ c.fill ∧ c.fill ≤ c.cfg.scanWindow ∧ isNoise (live c)) := by decide
theorem witness_OversizedLengthDropsTheFalseStartAndRetries :
    RingInv (ring c16 [0xAA, 0, 1, 2, 0]) ∧ live (ring c16 [0xAA, 0, 1, 2, 0]) = 0xAA :: 0 :: 1 :: 2 :: 0 :: [] ∧
      512 < (1 : Byte).toNat + 256 * (2 : Byte).toNat ∧
      RingInv (ring c16 [0xAA, 0xAA, 0xAA, 0xAA, 0xAA]) ∧
      live (ring c16 [0xAA, 0xAA, 0xAA, 0xAA, 0xAA]) = [0xAA, 0xAA, 0xAA, 0xAA, 0xAA] := by decide
theorem witness_IncompleteFrameStaysBuffered :
    let s := ring c16 [9, 0xAA, 1, 2, 0, 7, 5, 5, 5]
    RingInv s ∧ live s = [9] ++ 0xAA :: 1 :: 2 :: 0 :: 7 :: [5, 5, 5] ∧ isNoise [9] ∧ [9].length < s.cfg.scanWindow ∧
      (2 : Byte).toNat + 256 * (0 : Byte).toNat ≤ 512 ∧
      s.fill - [9].length < 7 + ((2 : Byte).toNat + 256 * (0 : Byte).toNat) := by decide
theorem witness_CorruptFrameCostsOneByte :
    let bad := ring c16 ([9] ++ ([0xAA, 2, 1, 0, 1] ++ [7] ++ [0xFF, 0x55]) ++ [3])
    let badEnd := ring c16 ([9] ++ ([0xAA, 2, 1, 0, 1] ++ [7] ++ [5, 0x54]) ++ [3])
    (RingInv bad ∧ live bad = [9] ++ ([0xAA, 2, 1, 0, 1] ++ [7] ++ [0xFF, 0x55]) ++ [3] ∧ isNoise [9] ∧
        [9].length < bad.cfg.scanWindow ∧ [7].length = (1 : Byte).toNat + 256 * (0 : Byte).toNat ∧
        (0xFF : Byte) ≠ xorAll ([2, 1, 0, 1] ++ [7])) ∧
      RingInv badEnd ∧ live badEnd = [9] ++ ([0xAA, 2, 1, 0, 1] ++ [7] ++ [5, 0x54]) ++ [3] ∧
        (5 : Byte) = xorAll ([2, 1, 0, 1] ++ [7]) ∧ (0x54 : Byte) ≠ 0x55 := by decide
theorem witness_WholeFrameIsDeliveredAndOnlyItIsDropped :
    let s := ring c16 ([1, 2, 3] ++ wireFrame 0x10 0x20 [0xAA, 0x55] ++ [0xAA])
    RingInv s ∧ live s = [1, 2, 3] ++ wireFrame 0x10 0x20 [0xAA, 0x55] ++ [0xAA] ∧ isNoise [1, 2, 3] ∧
      [1, 2, 3].length < s.cfg.scanWindow := by decide
theorem witness_PartialDeliveryThenCompletion :
    RingInv (ringAt c16 9 []) ∧ (ringAt c16 9 []).fill = 0 ∧
      [0xAA, 0x10, 0x02, 0x00, 0x20, 0xAA] ++ [0x55, 0xCD, 0x55] = wireFrame 0x10 0x20 [0xAA, 0x55] ∧
      7 + [0xAA, 0x55].length ≤ (ringAt c16 9 []).cfg.rxCapacity := by decide
theorem witness_ServiceEndsWithinItsBound : RingInv (ring c16 (frameA ++ frameA)) := by decide
theorem witness_ServiceDeliversBufferedFramesInOrder :
    let ps : List Packet := [⟨2, 1, 0, []⟩, ⟨3, 9, 1, [0xAA]⟩]
    let s := ring c16 ((ps.map (fun p => wireFrame p.code p.seq p.payload)).flatten ++ [0xAA])
    RingInv s ∧ [(0xAA : Byte)].length < 5 ∧
      (∀ p ∈ ps, p.payload.length ≤ 512 ∧ p.len = BitVec.ofNat 16 p.payload.length) ∧
      live s = (ps.map (fun p => wireFrame p.code p.seq p.payload)).flatten ++ [0xAA] ∧
      (let ts : List Turn := [.host, .rx 1, .rx 3, .host, .rx 0x55, .rx 0xAA, .host]
       let early := ring c16 [0xAA, 2, 0, 0]
       RingInv early ∧ live early ++ arrivals ts ++ [] =
          ([⟨2, 1, 0, []⟩].map (fun p : Packet => wireFrame p.code p.seq p.payload)).flatten ++ [0xAA] ∧
        early.fill + (arrivals ts).length ≤ early.cfg.rxCapacity ∧
        live early ++ arrivals [.host] ++ [1, 3, 0x55] =
          ([⟨2, 1, 0, []⟩].map (fun p : Packet => wireFrame p.code p.seq p.payload)).flatten ++ []) := by decide
theorem witness_ChecksumIgnoresTheOrderOfItsBytes : ([1, 2, 3, 4, 5] : List Byte).Perm [5, 1, 2, 3, 4] := by decide
theorem witness_ChecksumDetectsExactlyNonzeroMaskSums :
    ([1, 2] : List Byte).length = ([1, 0] : List Byte).length ∧
      ([1, 2] : List Byte) = [] ++ 1 :: [] ++ 2 :: [] := by decide
theorem witness_ChecksumCommandReturnsTheTxChecksum :
    512 < (513 : Half).toNat ∧ (512 : Half).toNat ≤ 512 := by decide
theorem witness_EncodeEmitsTheFrameWholeOrNotAtAll :
    512 < { State.reset with txLen := 513 }.txLen.toNat ∧ txState.txLen.toNat ≤ 512 := by decide
theorem witness_RepeatedEncodeEmitsTheSameFrame : { State.reset with txLen := 512 }.txLen.toNat ≤ 512 := by decide
theorem witness_EncodedBytesParseBackThroughTheRxPort :
    RingInv txState ∧ txState.fill = 0 ∧ txState.txLen.toNat ≤ 512 ∧
      7 + txState.txLen.toNat ≤ txState.cfg.rxCapacity := by decide
theorem witness_SendEmitsTheFrameOfItsOperands :
    (List.replicate 512 (0 : Byte)).length ≤ 65535 ∧ (List.replicate 512 (0 : Byte)).length ≤ 512 ∧
      (List.replicate 513 (0 : Byte)).length ≤ 65535 ∧ 512 < (List.replicate 513 (0 : Byte)).length := by
  simp only [List.length_replicate]
  decide
theorem witness_OnlyHostWritesChangeTxPayload :
    (pending [.write 0x5FC .word 1] wrapped).inputs = .write 0x5FC .word 1 :: [] ∧
      (∃ t, step (pending [.write 0x5FC .word 1] wrapped) = .next t) ∧
      Event.write 0x5FC .word 1 ≠ .reset ∧
      ∀ a n v, Event.write 0x5FC .word 1 = .write a n v → a.toNat < 0x600 ∨ 0x800 ≤ a.toNat :=
  ⟨rfl, ⟨_, rfl⟩, by decide, fun a n v h => by cases h; exact .inl (by decide)⟩
theorem witness_CountersChangeOnlyByTheirOwnRules :
    ∃ t, step (pending [.rx 9] full8) = .next t ∧ t.ovfCount ≠ full8.ovfCount ∧ Event.rx 9 ≠ .reset :=
  ⟨_, rfl, by decide, by decide⟩
theorem witness_OutcomeChangesOnlyByCommands :
    ∃ t, step (pending [commandWrite 2] full8) = .next t ∧ ¬ KeepsOutcome (pending [commandWrite 2] full8) t :=
  ⟨_, rfl, by decide⟩
theorem witness_PacketIsKeptUntilTheNextPacket :
    ∃ t, step (pending [commandWrite 0x10] wrapped) = .next t ∧ commandWrite 0x10 ≠ .reset ∧
      ¬ ((commandWrite 0x10).Issues .parse ∧ t.cause = .ok) :=
  ⟨_, rfl, by decide, fun h => absurd h.2 (by decide)⟩
theorem witness_StickyFlagsStaySetUntilCleared :
    ∃ t, step (pending [.write 0x008 .word 0x18] { full8 with ovf := true, ill := true }) = .next t ∧
      t.ovf = false ∧ t.ill = false ∧ Event.write 0x008 .word 0x18 ≠ .reset :=
  ⟨_, rfl, by decide, by decide, by decide⟩
theorem witness_PeakIsTheHighWaterMark :
    RingInv (pending [.rx 9] full8) ∧ (∃ t, step (pending [.rx 9] full8) = .next t) ∧
      ∀ rest, (pending [.rx 9] full8).inputs ≠ .reset :: rest :=
  ⟨full8_inv.1, ⟨_, rfl⟩, fun _ h => by cases h⟩
theorem witness_HiddenRingStateCannotBeObserved :
    Inv (ringAt c8 0 [1, 2]) ∧ Inv (ringAt c8 7 [1, 2]) ∧
      HostEquivalent (ringAt c8 0 [1, 2]) (ringAt c8 7 [1, 2]) :=
  ⟨by decide, by decide, by decide, rfl, rfl, ⟨rfl, rfl⟩, ⟨rfl, rfl⟩, rfl, ⟨rfl, rfl, rfl⟩,
    ⟨rfl, rfl, rfl, fun _ => rfl⟩, ⟨rfl, rfl, rfl, fun _ => rfl⟩, ⟨rfl, rfl⟩, rfl, rfl, rfl, rfl⟩
theorem witness_FillIsALowerBoundUnderArrivals :
    Inv (pending [.rx 9] full8) ∧ (pending [.rx 9] full8).inputs = .rx 9 :: [] ∧
      ∃ t, step (pending [.rx 9] full8) = .next t := ⟨by decide, rfl, _, rfl⟩

end Sys2Proof.Tests
end

/-! SUPPORT. What PARSE, a command and a step can do, said once as inductive relations whose constructors are the
cases (41_framer_parser.md R88 to R98, 30_encoding.md R58, 20_memory.md R48). No invariant is assumed, so frames that
hold in every state follow from them by cases. -/
section
namespace Sys2Proof.Machine

/-! ## PARSE -/

/-- `Trims s t`: `t` is `s` after drops of buffered bytes from the ring's front and counted errors, which is all that
PARSE does short of a packet (R91, R93, R96). -/
inductive Trims (s : State) : State → Prop
  | refl : Trims s s
  | drop {t : State} {k : Nat} (h : Trims s t) (hk : k ≤ t.fill) : Trims s (dropOldest k t)
  | err {t : State} (h : Trims s t) : Trims s (countErr t)
  | csumErr {t : State} (h : Trims s t) : Trims s (countCsumErr t)

theorem Trims.trans {s t u : State} (h : Trims s t) (h' : Trims t u) : Trims s u := by
  induction h' with
  | refl => exact h
  | drop _ hk ih => exact ih.drop hk
  | err _ ih => exact ih.err
  | csumErr _ ih => exact ih.csumErr

/-- `Parsed s o t`: a PARSE attempt from `s` can end with outcome `o` in `t`: either the ring is only trimmed, or a
wholly buffered frame of at most 512 payload bytes is then delivered (R97). -/
inductive Parsed (s : State) : ParseOutcome → State → Prop
  | nothing {o : ParseOutcome} {t : State} (ho : o ≠ .packet) (h : Trims s t) : Parsed s o t
  | packet {t : State} {L : Nat} (h : Trims s t) (hL : L ≤ maxPayload) (hf : headerSize + L + footerSize ≤ t.fill) :
      Parsed s .packet (acceptPacket L t)

theorem Parsed.of_trims {s t u : State} {o : ParseOutcome} (h : Trims s t) (h' : Parsed t o u) : Parsed s o u := by
  cases h' with
  | nothing ho h' => exact .nothing ho (h.trans h')
  | packet h' hL hf => exact .packet (h.trans h') hL hf

/-- The same for one pass through PARSE_ONE's loop, which may also re-enter it. -/
def PassResult.From (s : State) : PassResult → Prop
  | .done o _ t => Parsed s o t
  | .again _ t => Trims s t

theorem PassResult.From.addDropped {s : State} {r : PassResult} (k : Nat) (h : r.From s) : (r.addDropped k).From s := by
  cases r <;> exact h

theorem PassResult.From.of_trims {s t : State} {r : PassResult} (ht : Trims s t) (h : r.From t) : r.From s := by
  cases r with
  | done o d u => exact Parsed.of_trims ht h
  | again d u => exact ht.trans h

/-- The scan only drops bytes, each of them buffered (R91). -/
theorem scanForStart_trims (n k : Nat) (s : State) (hn : n ≤ s.fill) : Trims s (scanForStart n k s).state := by
  induction n generalizing k s with
  | zero => exact .refl
  | succ n ih =>
    have hdrop : Trims s (dropOldest 1 s) := .drop .refl (by omega)
    simp only [scanForStart]
    split
    · exact .refl
    · split
      · exact hdrop
      · exact hdrop.trans (ih _ _ (by rw [dropOldest_fill]; omega))

theorem validateFrame_from {L : Nat} {s : State} (hL : L ≤ maxPayload) (hf : headerSize + L + footerSize ≤ s.fill) :
    (validateFrame L s).From s := by
  have hpos : 1 ≤ s.fill := by simp only [headerSize] at hf; omega
  simp only [validateFrame]
  split
  · exact .nothing (by decide) (.drop (.err (.csumErr .refl)) hpos)
  · split
    · exact .nothing (by decide) (.drop (.err .refl) hpos)
    · exact .packet .refl hL hf

theorem attemptFrame_from {s : State} (h : headerSize ≤ s.fill) : (attemptFrame s).From s := by
  have hpos : 1 ≤ s.fill := by simp only [headerSize] at h; omega
  simp only [attemptFrame]
  split
  · exact .drop (.err .refl) hpos
  · split
    · exact .nothing (by decide) .refl
    · exact validateFrame_from (by omega) (by omega)

theorem parsePass_from (s : State) : (parsePass s).From s := by
  have hscan : Trims s (scanForStart s.fill 0 s).state := scanForStart_trims _ _ _ (Nat.le_refl _)
  simp only [parsePass]
  split
  · exact .nothing (by decide) .refl
  · split
    · exact .nothing (by decide) hscan
    · split
      · exact .nothing (by decide) hscan
      · exact .addDropped _ (.of_trims hscan (attemptFrame_from (by omega)))

theorem parseLoop_parsed (n d : Nat) (s : State) : Parsed s (parseLoop n d s).1 (parseLoop n d s).2.2 := by
  induction n generalizing d s with
  | zero => exact .nothing (by simp [parseLoop]) .refl
  | succ n ih =>
    have hpass := parsePass_from s
    simp only [parseLoop]
    split
    · next e => rw [e] at hpass; exact hpass
    · next e => rw [e] at hpass; exact .of_trims hpass (ih _ _)

/-- Short of a packet PARSE touches only RD, FILL, ERR_COUNT and CSUM_ERR_COUNT, and FILL only falls. -/
theorem Trims.keeps {s t : State} (h : Trims s t) :
    t.fill ≤ s.fill ∧ t.peak = s.peak ∧ t.ill = s.ill ∧ KeepsOverflow s t ∧ KeepsPacket s t ∧ KeepsTxOperands s t ∧
      KeepsTxOutput s t ∧ KeepsSurroundings s t := by
  induction h with
  | refl => exact ⟨Nat.le_refl _, rfl, rfl, ⟨rfl, rfl⟩, ⟨rfl, rfl, rfl, fun _ => rfl⟩, ⟨rfl, rfl, rfl, fun _ => rfl⟩,
      ⟨rfl, rfl⟩, rfl, rfl, rfl, rfl⟩
  | drop _ _ ih => exact ⟨Nat.le_trans (Nat.sub_le _ _) ih.1, ih.2⟩
  | err _ ih => exact ih
  | csumErr _ ih => exact ih

/-- What every PARSE keeps, with or without a packet (R88). -/
theorem Parsed.keeps {s t : State} {o : ParseOutcome} (h : Parsed s o t) :
    t.fill ≤ s.fill ∧ t.peak = s.peak ∧ t.ill = s.ill ∧ KeepsOverflow s t ∧ KeepsTxOperands s t ∧
      KeepsTxOutput s t ∧ KeepsSurroundings s t := by
  cases h with
  | nothing _ h =>
    obtain ⟨hfill, hpeak, hill, hovf, -, hrest⟩ := h.keeps
    exact ⟨hfill, hpeak, hill, hovf, hrest⟩
  | packet h _ _ =>
    obtain ⟨hfill, hpeak, hill, hovf, -, hrest⟩ := h.keeps
    exact ⟨Nat.le_trans (Nat.sub_le _ _) hfill, hpeak, hill, hovf, hrest⟩

theorem Parsed.keepsPacket {s t : State} {o : ParseOutcome} (h : Parsed s o t) (ho : o ≠ .packet) :
    KeepsPacket s t := by
  cases h with
  | nothing _ h =>
    obtain ⟨-, -, -, -, hpacket, -⟩ := h.keeps
    exact hpacket
  | packet => exact absurd rfl ho

/-! ## Commands -/

/-- `Effect i c s t`: what command `i`, ending with cause `c`, can do to the state before it finishes. It bounds the
commands from above: which of them drop bytes, and how many, no frame needs. -/
inductive Effect : Instr → Cause → State → State → Prop
  | nothing (i : Instr) (c : Cause) (s : State) : Effect i c s s
  | reject (b : Byte) (c : Cause) (s : State) : Effect (.push b) c s (rejectPush s)
  | store (b : Byte) (c : Cause) {s : State} (h : s.fill ≠ s.cfg.rxCapacity) : Effect (.push b) c s (storeByte b s)
  | drop (i : Instr) (c : Cause) {s : State} {k : Nat} (h : k ≤ s.fill) : Effect i c s (dropOldest k s)
  | clear (c : Cause) (s : State) : Effect .clear c s (clearRing s)
  | arrive (b : Byte) (c : Cause) (s : State) : Effect (.rxByte b) c s (rxArrive b s).2
  | parse {o : ParseOutcome} {s t : State} (h : Parsed s o t) : Effect .parse o.cause s t
  | emit (c : Cause) (s : State) (bs : List Byte) :
      Effect .encode c s { s with txout := s.txout ++ bs, txCount := s.txCount + 1 }

/-- Every command is answered in every state: it has one of the effects, then finishes (R112, R116). -/
theorem exec_answers (i : Instr) (s : State) :
    ∃ c r t, exec i s = .next (finish c r t) ∧ Effect i c s t := by
  cases i with
  | push b =>
    by_cases h : s.fill = s.cfg.rxCapacity
    · exact ⟨_, _, _, exec_push_full h b, .reject ..⟩
    · exact ⟨_, _, _, exec_push_room h b, .store _ _ h⟩
  | pop =>
    by_cases h : s.fill = 0
    · exact ⟨_, _, _, exec_pop_empty h, .nothing ..⟩
    · exact ⟨_, _, _, exec_pop_some h, .drop _ _ (by omega)⟩
  | peek =>
    by_cases h : s.fill = 0
    · exact ⟨_, _, _, exec_peek_empty h, .nothing ..⟩
    · exact ⟨_, _, _, exec_peek_some h, .nothing ..⟩
  | peekAt n =>
    by_cases h : s.fill ≤ n.toNat
    · exact ⟨_, _, _, exec_peekAt_range h, .nothing ..⟩
    · exact ⟨_, _, _, exec_peekAt_some (by omega), .nothing ..⟩
  | discard n => exact ⟨_, _, _, exec_discard n s, .drop _ _ (Nat.min_le_right _ _)⟩
  | available => exact ⟨_, _, _, exec_available s, .nothing ..⟩
  | free => exact ⟨_, _, _, exec_free s, .nothing ..⟩
  | capacity => exact ⟨_, _, _, exec_capacity s, .nothing ..⟩
  | clear => exact ⟨_, _, _, exec_clear s, .clear ..⟩
  | rxByte b => exact ⟨_, _, _, exec_rxByte b s, .arrive ..⟩
  | parse => exact ⟨_, _, _, rfl, .parse (parseLoop_parsed (s.fill + 1) 0 s)⟩
  | checksum =>
    by_cases h : s.txLen.toNat ≤ 512
    · exact ⟨_, _, _, exec_checksum_ok h, .nothing ..⟩
    · exact ⟨_, _, _, exec_checksum_long (by omega), .nothing ..⟩
  | encode =>
    by_cases h : s.txLen.toNat ≤ 512
    · exact ⟨_, _, _, exec_encode_ok h, .emit ..⟩
    · exact ⟨_, _, _, exec_encode_long (by omega), .nothing ..⟩

theorem exec_cases {i : Instr} {s t : State} (h : exec i s = .next t) :
    ∃ c r u, t = finish c r u ∧ Effect i c s u := by
  obtain ⟨c, r, u, hx, he⟩ := exec_answers i s
  exact ⟨c, r, u, Host.Outcome.next.inj (h.symm.trans hx), he⟩

theorem keepsBesideRing_refl (s : State) : KeepsBesideRing s s :=
  ⟨rfl, ⟨rfl, rfl, rfl⟩, ⟨rfl, rfl, rfl, fun _ => rfl⟩, ⟨rfl, rfl, rfl, fun _ => rfl⟩, ⟨rfl, rfl⟩, rfl, rfl, rfl, rfl⟩

/-- An arrival touches only the ring, OVF and OVF_COUNT (R75). -/
theorem rxArrive_keepsBesideRing (b : Byte) (s : State) : KeepsBesideRing s (rxArrive b s).2 := by
  rcases rxArrive_cases b s with ⟨-, e⟩ | ⟨-, e⟩ <;> rw [e] <;> exact keepsBesideRing_refl s

/-- An arrival does not write RESULT and CAUSE (R76). -/
theorem rxArrive_keepsOutcome (b : Byte) (s : State) : KeepsOutcome s (rxArrive b s).2 := by
  rcases rxArrive_cases b s with ⟨-, e⟩ | ⟨-, e⟩ <;> rw [e] <;> exact ⟨rfl, rfl⟩

/-- An arrival can set OVF but not clear it (R74, R75). -/
theorem rxArrive_ovf {s : State} (h : s.ovf = true) (b : Byte) : (rxArrive b s).2.ovf = true := by
  rcases rxArrive_cases b s with ⟨-, e⟩ | ⟨-, e⟩ <;> rw [e]
  · rfl
  · exact h

section
variable {i : Instr} {c : Cause} {s t : State}

/-- The receive buffer's commands and CHECKSUM touch only the ring, OVF and OVF_COUNT. -/
theorem Effect.keepsBesideRing (h : Effect i c s t) (hp : i ≠ .parse) (he : i ≠ .encode) : KeepsBesideRing s t := by
  cases h with
  | arrive b => exact rxArrive_keepsBesideRing b s
  | parse => exact absurd rfl hp
  | emit => exact absurd rfl he
  | _ => exact keepsBesideRing_refl s

/-- No command changes ILL, the TX operands, the configuration or the model's own fields. -/
theorem Effect.keepsIllAndTxOperands (h : Effect i c s t) :
    t.ill = s.ill ∧ KeepsTxOperands s t ∧ KeepsSurroundings s t := by
  cases h with
  | arrive b =>
    obtain ⟨hill, -, -, htx, -, hsur⟩ := rxArrive_keepsBesideRing b s
    exact ⟨hill, htx, hsur⟩
  | parse h =>
    obtain ⟨-, -, hill, -, htx, -, hsur⟩ := h.keeps
    exact ⟨hill, htx, hsur⟩
  | _ => exact ⟨rfl, ⟨rfl, rfl, rfl, fun _ => rfl⟩, rfl, rfl, rfl, rfl⟩

/-- Only ENCODE emits (R107). -/
theorem Effect.keepsTxOutput (h : Effect i c s t) (hi : i ≠ .encode) : KeepsTxOutput s t := by
  cases h with
  | parse h =>
    obtain ⟨-, -, -, -, -, hout, -⟩ := h.keeps
    exact hout
  | arrive b =>
    obtain ⟨-, -, -, -, hout, -⟩ := rxArrive_keepsBesideRing b s
    exact hout
  | emit => exact absurd rfl hi
  | _ => exact ⟨rfl, rfl⟩

/-- Only PUSH and RXBYTE can count an overflow (R87). -/
theorem Effect.keepsOverflow (h : Effect i c s t) (hi : ∀ b, i ≠ .push b ∧ i ≠ .rxByte b) : KeepsOverflow s t := by
  cases h with
  | reject b => exact absurd rfl (hi b).1
  | arrive b => exact absurd rfl (hi b).2
  | parse h =>
    obtain ⟨-, -, -, hovf, -⟩ := h.keeps
    exact hovf
  | _ => exact ⟨rfl, rfl⟩

/-- No command clears OVF (R28). -/
theorem Effect.ovf (h : Effect i c s t) (hs : s.ovf = true) : t.ovf = true := by
  cases h with
  | reject => rfl
  | arrive b => exact rxArrive_ovf hs b
  | parse h =>
    obtain ⟨-, -, -, ⟨-, hovf⟩, -⟩ := h.keeps
    exact hovf.trans hs
  | _ => exact hs

/-- Only PARSE counts received packets and errors (R32). -/
theorem Effect.keepsReceiveCounts (h : Effect i c s t) (hi : i ≠ .parse) : KeepsReceiveCounts s t := by
  cases h with
  | parse => exact absurd rfl hi
  | arrive b =>
    obtain ⟨-, hcounts, -⟩ := rxArrive_keepsBesideRing b s
    exact hcounts
  | _ => exact ⟨rfl, rfl, rfl⟩

/-- Only a PARSE that ends OK delivers a packet (R33, R97). -/
theorem Effect.keepsPacket (h : Effect i c s t) (hi : ¬ (i = .parse ∧ c = .ok)) : KeepsPacket s t := by
  cases h with
  | parse h => exact h.keepsPacket fun ho => hi ⟨rfl, by rw [ho]; rfl⟩
  | arrive b =>
    obtain ⟨-, -, hpacket, -⟩ := rxArrive_keepsBesideRing b s
    exact hpacket
  | _ => exact ⟨rfl, rfl, rfl, fun _ => rfl⟩

end

/-! ## Steps -/

/-- `Performed e s t`: the step `e` of the surroundings, taken in `s`, answers `t`; one constructor per way a step can
go (R41, R42, R45, R46, R60, R76, R126). -/
inductive Performed : Event → State → State → Prop
  | read {a : Offset} {n : AccessWidth} (h : legalAccess a n = true) (s : State) :
      Performed (.read a n) s (respond (.data (memRead a n s)) s)
  | readError {a : Offset} {n : AccessWidth} (h : legalAccess a n = false) (s : State) :
      Performed (.read a n) s (respond (.busError a) s)
  | writeError {a : Offset} {n : AccessWidth} (h : legalAccess a n = false) (v : Word) (s : State) :
      Performed (.write a n v) s (respond (.busError a) s)
  | command {w : Word} {i : Instr} {s t : State} (hd : decode w = .ok i) (hx : exec i (respond .ok s) = .next t) :
      Performed (commandWrite w) s t
  | illegalWord {w : Word} {r : IllegalWord} (hd : decode w = .error r) (s : State) :
      Performed (commandWrite w) s (illegalCommand (respond .ok s))
  | writeStatus (v : Word) (s : State) : Performed (.write 0x008 .word v) s (clearSticky v (respond .ok s))
  | writeTxHdr (v : Word) (s : State) : Performed (.write 0x030 .word v) s (writeTxHdr v (respond .ok s))
  | writeTxPayload {a : Offset} {n : AccessWidth} (h : legalAccess a n = true) (ha : regionOf a = .txPayload)
      (v : Word) (s : State) :
      Performed (.write a n v) s (writeTxPayload (a.toNat - 0x600) (lanes v n.bytes) (respond .ok s))
  | ignoredWrite {a : Offset} {n : AccessWidth} (h : legalAccess a n = true) (h0 : a ≠ 0x000) (h8 : a ≠ 0x008)
      (h30 : a ≠ 0x030) (ha : regionOf a ≠ .txPayload) (v : Word) (s : State) :
      Performed (.write a n v) s (respond .ok s)
  | rx (b : Byte) (s : State) : Performed (.rx b) s (rxPortArrival b s)
  | reset (s : State) : Performed .reset s (performReset s)

/-- An offset lies in the register file exactly below 0x038 (R40). -/
theorem regionOf_registers {a : Offset} : regionOf a = .registers ↔ a.toNat < 0x038 := by
  simp only [regionOf]
  repeat' split
  all_goals simp; omega

/-- An offset lies in TX_PAYLOAD's window exactly from 0x600 up to 0x800 (R40). -/
theorem regionOf_txPayload {a : Offset} : regionOf a = .txPayload ↔ 0x600 ≤ a.toNat ∧ a.toNat < 0x800 := by
  simp only [regionOf]
  repeat' split
  all_goals simp; omega

/-- Registers are accessed whole (R41). -/
theorem width_of_legalRegister {a : Offset} {n : AccessWidth} (h : legalAccess a n = true)
    (ha : regionOf a = .registers) : n = .word := by
  simp only [legalAccess, ha, Bool.and_eq_true, beq_iff_eq] at h
  exact h.1

/-- A legal access to TX_PAYLOAD lies in its window with all its bytes (R41). -/
theorem txPayload_access_bound {a : Offset} {n : AccessWidth} (h : legalAccess a n = true)
    (ha : regionOf a = .txPayload) : a.toNat - 0x600 + n.bytes ≤ 512 := by
  simp only [legalAccess, ha, beq_iff_eq] at h
  have := regionOf_txPayload.1 ha
  cases n <;> simp only [AccessWidth.bytes] at h ⊢ <;> omega

theorem plainWrite_ignored {a : Offset} (h8 : a ≠ 0x008) (h30 : a ≠ 0x030) (ha : regionOf a ≠ .txPayload)
    (n : AccessWidth) (v : Word) (s : State) : plainWrite a n v s = s := by
  have h8' : a.toNat ≠ 0x008 := fun e => h8 (BitVec.eq_of_toNat_eq e)
  have h30' : a.toNat ≠ 0x030 := fun e => h30 (BitVec.eq_of_toNat_eq e)
  cases hr : regionOf a with
  | registers => simp only [plainWrite, hr, if_neg h8', if_neg h30']
  | reserved => simp only [plainWrite, hr]
  | pktPayload => simp only [plainWrite, hr]
  | txPayload => exact absurd hr ha

theorem hostWrite_of_legal {a : Offset} {n : AccessWidth} (h : legalAccess a n = true) (h0 : a ≠ 0x000) (v : Word)
    (s : State) : hostWrite a n v s = .next (plainWrite a n v (respond .ok s)) := by
  have h0' : a.toNat ≠ 0x000 := fun e => h0 (BitVec.eq_of_toNat_eq e)
  rw [hostWrite, if_pos h, if_neg h0']

/-- The steps of the relation are steps of the machine. -/
theorem Performed.perform_eq {e : Event} {s t : State} (h : Performed e s t) : perform e s = .next t := by
  cases h with
  | read h => simp [perform, hostRead, h]
  | readError h => simp [perform, hostRead, h]
  | writeError h => simp [perform, hostWrite, h]
  | @command w _ _ _ hd hx =>
    show execute w (respond .ok s) = _
    rw [execute, hd]
    exact hx
  | @illegalWord w _ hd =>
    show execute w (respond .ok s) = _
    rw [execute, hd]
  | writeStatus => rfl
  | writeTxHdr => rfl
  | @writeTxPayload a n h ha v =>
    have h0 : a ≠ 0x000 := by rintro rfl; cases ha
    show hostWrite a n v s = _
    rw [hostWrite_of_legal h h0, plainWrite, ha]
  | @ignoredWrite a n h h0 h8 h30 ha v =>
    show hostWrite a n v s = _
    rw [hostWrite_of_legal h h0, plainWrite_ignored h8 h30 ha]
  | rx => rfl
  | reset => rfl

/-- A legal write goes one of the ways of the relation (R46). -/
theorem performed_of_legalWrite {a : Offset} {n : AccessWidth} (h : legalAccess a n = true) (v : Word) (s : State) :
    ∃ t, Performed (.write a n v) s t := by
  have word_of_register : a.toNat < 0x038 → n = .word := fun ha => width_of_legalRegister h (regionOf_registers.2 ha)
  by_cases h0 : a = 0x000
  · obtain rfl : n = .word := word_of_register (by rw [h0]; decide)
    subst h0
    cases hd : decode v with
    | ok i =>
      obtain ⟨c, r, u, hx, -⟩ := exec_answers i (respond .ok s)
      exact ⟨_, .command hd hx⟩
    | error r => exact ⟨_, .illegalWord hd s⟩
  by_cases h8 : a = 0x008
  · obtain rfl : n = .word := word_of_register (by rw [h8]; decide)
    subst h8
    exact ⟨_, .writeStatus v s⟩
  by_cases h30 : a = 0x030
  · obtain rfl : n = .word := word_of_register (by rw [h30]; decide)
    subst h30
    exact ⟨_, .writeTxHdr v s⟩
  by_cases ha : regionOf a = .txPayload
  · exact ⟨_, .writeTxPayload h ha v s⟩
  · exact ⟨_, .ignoredWrite h h0 h8 h30 ha v s⟩

/-- Every step is answered in every state (R116). -/
theorem exists_performed (e : Event) (s : State) : ∃ t, Performed e s t := by
  cases e with
  | read a n =>
    cases h : legalAccess a n with
    | true => exact ⟨_, .read h s⟩
    | false => exact ⟨_, .readError h s⟩
  | write a n v =>
    cases h : legalAccess a n with
    | true => exact performed_of_legalWrite h v s
    | false => exact ⟨_, .writeError h v s⟩
  | rx b => exact ⟨_, .rx b s⟩
  | reset => exact ⟨_, .reset s⟩

/-- The relation is `perform`. -/
theorem performed_iff {e : Event} {s t : State} : Performed e s t ↔ perform e s = .next t := by
  refine ⟨Performed.perform_eq, fun h => ?_⟩
  obtain ⟨u, hu⟩ := exists_performed e s
  rwa [Host.Outcome.next.inj (h.symm.trans hu.perform_eq)]

theorem step_nil {s : State} (h : s.inputs = []) : step s = .next s := by rw [step, h]

theorem step_cons {s : State} {e : Event} {rest : List Event} (h : s.inputs = e :: rest) :
    step s = perform e { s with inputs := rest } := by rw [step, h]

theorem performed_of_step {s t : State} {e : Event} {rest : List Event} (hi : s.inputs = e :: rest)
    (h : step s = .next t) : Performed e { s with inputs := rest } t :=
  performed_iff.2 ((step_cons hi).symm.trans h)

end Sys2Proof.Machine
end

/-! SUPPORT. The invariant of 10_state.md R20: each operation keeps it, so each command does, so each step does. -/
section
namespace Sys2Proof.Machine

/-! ## Operations -/

/-- STORE with room writes the slot that becomes the last live byte, and no other (R72). -/
theorem storeByte_inv {s : State} (h : Inv s) (hf : s.fill < s.cfg.rxCapacity) (b : Byte) : Inv (storeByte b s) := by
  obtain ⟨hring, ⟨hwf, hbelow, hstorage⟩, hlive, hpkt⟩ := h
  obtain ⟨-, -, hwr, -, hcur, -, -⟩ := id hring
  refine ⟨hring.storeByte hf b, ⟨Memory.store_wf hwf _ _, Memory.store_below hbelow hwr b, hstorage⟩,
    fun i hi => ?_, hpkt⟩
  show (Memory.cellAt (Memory.store s.rxbuf s.wr b) ((s.rd + i) % s.cfg.rxCapacity)).isSome
  rcases Nat.lt_succ_iff_lt_or_eq.1 hi with hi | rfl
  · exact Memory.isSome_store (hlive i hi) _ _
  · rw [← hcur, Memory.cellAt_store_self]
    rfl

theorem dropOldest_inv {s : State} (h : Inv s) {k : Nat} (hk : k ≤ s.fill) : Inv (dropOldest k s) := by
  obtain ⟨hring, hstorage, hlive, hpkt⟩ := h
  refine ⟨hring.dropOldest hk, hstorage, fun i hi => ?_, hpkt⟩
  show (Memory.cellAt s.rxbuf (((s.rd + k) % s.cfg.rxCapacity + i) % s.cfg.rxCapacity)).isSome
  rw [Nat.mod_add_mod, Nat.add_assoc]
  rw [dropOldest_fill] at hi
  exact hlive (k + i) (by omega)

theorem clearRing_inv {s : State} (h : Inv s) : Inv (clearRing s) := by
  obtain ⟨hring, hstorage, -, hpkt⟩ := h
  exact ⟨hring.clearRing, hstorage, fun i hi => absurd hi (Nat.not_lt_zero i), hpkt⟩

theorem rxArrive_inv {s : State} (h : Inv s) (b : Byte) : Inv (rxArrive b s).2 := by
  obtain ⟨⟨-, -, -, -, hchunk, hle, -⟩, -, -, hfill, -⟩ := h.1
  rcases rxArrive_cases b s with ⟨hf, e⟩ | ⟨hf, e⟩ <;> rw [e]
  · have hreject : Inv (rejectPush s) := h
    exact storeByte_inv (dropOldest_inv hreject (Nat.min_le_right _ _)) (by simp; omega) b
  · exact storeByte_inv h (by omega) b

/-- A packet of at most 512 bytes is delivered whole, so each byte of it has been written (R97). -/
theorem acceptPacket_inv {s : State} (h : Inv s) {L : Nat} (hL : L ≤ maxPayload)
    (hf : headerSize + L + footerSize ≤ s.fill) : Inv (acceptPacket L s) := by
  obtain ⟨hring, ⟨hrxwf, hrxbelow, hwf, hbelow, htxwf, htxbelow, -⟩, hlive, -⟩ := h
  have hL : L ≤ 512 := hL
  have hlen : (ringBytes s 5 L).length = L := by simp [ringBytes]
  have hL16 : (BitVec.ofNat 16 L).toNat = L := by rw [BitVec.toNat_ofNat]; omega
  have hdelivered : Inv { s with
      pktCode := ringByte s 1, pktSeq := ringByte s 4, pktLen := BitVec.ofNat 16 L,
      pktPayload := Memory.storeAll s.pktPayload 0 (ringBytes s 5 L) } := by
    refine ⟨hring, ⟨hrxwf, hrxbelow, Memory.storeAll_wf hwf _ _, Memory.storeAll_below hbelow (by omega), htxwf,
      htxbelow, hL16.symm ▸ hL⟩, hlive, fun i hi => ?_⟩
    have hi : i < L := hL16 ▸ hi
    show (Memory.cellAt (Memory.storeAll s.pktPayload 0 (ringBytes s 5 L)) i).isSome
    rw [Memory.cellAt_storeAll, if_pos (by omega), List.getElem?_eq_getElem (by omega)]
    rfl
  exact dropOldest_inv hdelivered hf

theorem writeTxPayload_inv {s : State} (h : Inv s) {i : Nat} {bs : List Byte} (hb : i + bs.length ≤ 512) :
    Inv (writeTxPayload i bs s) := by
  obtain ⟨hring, ⟨hrxwf, hrxbelow, hwf, hbelow, htxwf, htxbelow, hlen⟩, hwritten⟩ := h
  exact ⟨hring, ⟨hrxwf, hrxbelow, hwf, hbelow, Memory.storeAll_wf htxwf _ _, Memory.storeAll_below htxbelow hb, hlen⟩,
    hwritten⟩

theorem resetWith_inv {c : Config} (h : c.Legal) : Inv (State.resetWith c) := by
  have hpos : 0 < c.rxCapacity := by have := h.1; omega
  refine ⟨⟨h, hpos, hpos, Nat.zero_le _, rfl, Nat.le_refl _, Nat.zero_le _⟩, ?_, fun i hi => ?_, fun i hi => ?_⟩
  · simp [StorageInv, State.resetWith]
  · exact absurd hi (Nat.not_lt_zero i)
  · exact absurd hi (Nat.not_lt_zero i)

/-! ## Commands and steps -/

theorem Trims.inv {s t : State} (h : Trims s t) (hs : Inv s) : Inv t := by
  induction h with
  | refl => exact hs
  | drop _ hk ih => exact dropOldest_inv ih hk
  | err _ ih => exact ih
  | csumErr _ ih => exact ih

theorem Parsed.inv {s t : State} {o : ParseOutcome} (h : Parsed s o t) (hs : Inv s) : Inv t := by
  cases h with
  | nothing _ h => exact h.inv hs
  | packet h hL hf => exact acceptPacket_inv (h.inv hs) hL hf

theorem Effect.inv {i : Instr} {c : Cause} {s t : State} (h : Effect i c s t) (hs : Inv s) : Inv t := by
  cases h with
  | nothing => exact hs
  | reject => exact hs
  | store b _ h =>
    obtain ⟨-, -, -, hfill, -⟩ := hs.1
    exact storeByte_inv hs (by omega) b
  | drop _ _ h => exact dropOldest_inv hs h
  | clear => exact clearRing_inv hs
  | arrive b => exact rxArrive_inv hs b
  | parse h => exact h.inv hs
  | emit => exact hs

theorem Performed.inv {e : Event} {s t : State} (h : Performed e s t) (hs : Inv s) : Inv t := by
  cases h with
  | command _ hx =>
    obtain ⟨c, r, u, rfl, he⟩ := exec_cases hx
    exact he.inv (s := respond .ok s) hs
  | writeTxPayload h ha v =>
    exact writeTxPayload_inv (s := respond .ok s) hs (by simpa [lanes] using txPayload_access_bound h ha)
  | rx b => exact rxArrive_inv hs b
  | reset =>
    obtain ⟨⟨hlegal, -⟩, -⟩ := hs
    exact resetWith_inv hlegal
  | _ => exact hs

/-- Settles O9: each way a step can go keeps the invariant. -/
theorem everyStepKeepsTheInvariant : Obligations.EveryStepKeepsTheInvariant := by
  intro s t hs h
  cases hi : s.inputs with
  | nil =>
    obtain rfl := Host.Outcome.next.inj ((step_nil hi).symm.trans h)
    exact hs
  | cons e rest => exact (performed_of_step hi h).inv hs

/-- Settles O8. -/
theorem resetStateMeetsTheInvariant : Obligations.ResetStateMeetsTheInvariant :=
  ⟨fun _ h => resetWith_inv h, resetWith_inv (by decide)⟩

/-- Settles O7: the step answers `performReset`, whose fields are R38's values. -/
theorem resetStepSetsEveryResetValue : Obligations.ResetStepSetsEveryResetValue := by
  intro s rest hlegal hi
  have hcap : (0 == s.cfg.rxCapacity) = false := beq_false_of_ne (by have := hlegal.1; omega)
  have hstatus : statusWord (performReset { s with inputs := rest }) = 0x00000F02 := by
    simp [statusWord, fullFlag, emptyFlag, okFlag, Cause.code, hcap]
  exact ⟨_, step_cons hi, rfl, rfl, rfl, rfl, rfl, rfl, rfl, rfl, rfl, rfl, rfl, rfl, rfl, rfl, rfl, rfl, rfl, rfl, rfl,
    rfl, hstatus, rfl⟩

end Sys2Proof.Machine
end

/-! SUPPORT. What each step leaves unchanged (10_state.md R27 to R37): the frame of every way a step can go, from the
commands' frames. -/
section
namespace Sys2Proof.Machine

section
variable {e : Event} {s t : State}

/-- R37: only a write to the window of TX_PAYLOAD changes it. -/
theorem Performed.txByte_eq (h : Performed e s t) (hr : e ≠ .reset)
    (hw : ∀ a n v, e = .write a n v → a.toNat < 0x600 ∨ 0x800 ≤ a.toNat) (i : Nat) : txByte t i = txByte s i := by
  cases h with
  | command _ hx =>
    obtain ⟨c, r, u, rfl, he⟩ := exec_cases hx
    obtain ⟨-, ⟨-, -, -, hbytes⟩, -⟩ := he.keepsIllAndTxOperands
    exact hbytes i
  | @writeTxPayload a n h ha v =>
    have := regionOf_txPayload.1 ha
    have := hw a n v rfl
    omega
  | rx b =>
    obtain ⟨-, -, -, ⟨-, -, -, hbytes⟩, -⟩ := rxArrive_keepsBesideRing b s
    exact hbytes i
  | reset => exact absurd rfl hr
  | _ => rfl

/-- R32, R87: each counter has its own steps. -/
theorem Performed.counters (h : Performed e s t) (hr : e ≠ .reset) :
    (t.ovfCount ≠ s.ovfCount → ∃ b, e = .rx b ∨ e.Issues (.push b) ∨ e.Issues (.rxByte b)) ∧
      (t.txCount ≠ s.txCount → e.Issues .encode) ∧ (¬ KeepsReceiveCounts s t → e.Issues .parse) := by
  cases h with
  | @command w i _ _ hd hx =>
    obtain ⟨c, r, u, rfl, he⟩ := exec_cases hx
    have issues {j : Instr} (hj : i = j) : (commandWrite w).Issues j := ⟨w, rfl, hj ▸ hd⟩
    refine ⟨fun h => ?_, fun h => ?_, fun h => ?_⟩
    · by_contra hno
      refine h (he.keepsOverflow fun b => ⟨fun hi => hno ⟨b, .inr (.inl (issues hi))⟩, fun hi => ?_⟩).1
      exact hno ⟨b, .inr (.inr (issues hi))⟩
    · by_contra hno
      exact h (he.keepsTxOutput fun hi => hno (issues hi)).1
    · by_contra hno
      exact h (he.keepsReceiveCounts fun hi => hno (issues hi))
  | rx b =>
    obtain ⟨-, hcounts, -, -, hout, -⟩ := rxArrive_keepsBesideRing b s
    exact ⟨fun _ => ⟨b, .inl rfl⟩, fun h => absurd hout.1 h, fun h => absurd hcounts h⟩
  | reset => exact absurd rfl hr
  | _ => exact ⟨fun h => absurd rfl h, fun h => absurd rfl h, fun h => absurd ⟨rfl, rfl, rfl⟩ h⟩

/-- R27, R76: only a word written to CMD, and reset, write RESULT and CAUSE. -/
theorem Performed.keepsOutcome (h : Performed e s t) (hr : e ≠ .reset) (hw : ∀ w, e ≠ commandWrite w) :
    KeepsOutcome s t := by
  cases h with
  | @command w => exact absurd rfl (hw w)
  | @illegalWord w => exact absurd rfl (hw w)
  | rx b => exact rxArrive_keepsOutcome b s
  | reset => exact absurd rfl hr
  | _ => exact ⟨rfl, rfl⟩

/-- R33, R132: only a PARSE that ends OK, and reset, change the packet. -/
theorem Performed.keepsPacket (h : Performed e s t) (hr : e ≠ .reset) (hp : ¬ (e.Issues .parse ∧ t.cause = .ok)) :
    KeepsPacket s t := by
  cases h with
  | @command w i _ _ hd hx =>
    obtain ⟨c, r, u, rfl, he⟩ := exec_cases hx
    exact he.keepsPacket fun ⟨hi, hc⟩ => hp ⟨⟨w, rfl, hi ▸ hd⟩, hc⟩
  | rx b =>
    obtain ⟨-, -, hpacket, -⟩ := rxArrive_keepsBesideRing b s
    exact hpacket
  | reset => exact absurd rfl hr
  | _ => exact ⟨rfl, rfl, rfl, fun _ => rfl⟩

/-- R28: OVF is cleared only by writing 1 to STATUS bit 3. -/
theorem Performed.ovf_cleared (h : Performed e s t) (hr : e ≠ .reset) (hs : s.ovf = true) (ht : t.ovf = false) :
    ∃ v, e = .write 0x008 .word v ∧ v.getLsbD 3 = true := by
  cases h with
  | command _ hx =>
    obtain ⟨c, r, u, rfl, he⟩ := exec_cases hx
    exact absurd (he.ovf hs) (ne_true_of_eq_false ht)
  | writeStatus v => exact ⟨v, rfl, by simpa [hs] using ht⟩
  | rx b => exact absurd (rxArrive_ovf hs b) (ne_true_of_eq_false ht)
  | reset => exact absurd rfl hr
  | _ => exact absurd hs (ne_true_of_eq_false ht)

/-- R28, R113: ILL is cleared only by writing 1 to STATUS bit 4. -/
theorem Performed.ill_cleared (h : Performed e s t) (hr : e ≠ .reset) (hs : s.ill = true) (ht : t.ill = false) :
    ∃ v, e = .write 0x008 .word v ∧ v.getLsbD 4 = true := by
  cases h with
  | command _ hx =>
    obtain ⟨c, r, u, rfl, he⟩ := exec_cases hx
    obtain ⟨hill, -⟩ := he.keepsIllAndTxOperands
    exact absurd (hill.trans hs) (ne_true_of_eq_false ht)
  | illegalWord => exact absurd ht (by simp)
  | writeStatus v => exact ⟨v, rfl, by simpa [hs] using ht⟩
  | rx b =>
    obtain ⟨hill, -⟩ := rxArrive_keepsBesideRing b s
    exact absurd (hill.trans hs) (ne_true_of_eq_false ht)
  | reset => exact absurd rfl hr
  | _ => exact absurd hs (ne_true_of_eq_false ht)

end

/-! ## PEAK -/

/-- An arrival raises PEAK to the new FILL if that is higher, with or without an eviction (R72, R75). -/
theorem rxArrive_peak (b : Byte) (s : State) : (rxArrive b s).2.peak = max s.peak (rxArrive b s).2.fill := by
  rcases rxArrive_cases b s with ⟨-, e⟩ | ⟨-, e⟩ <;> rw [e] <;> rfl

/-- R31: FILL rises only in STORE, which raises PEAK with it (R72). -/
theorem Effect.peak {i : Instr} {c : Cause} {s t : State} (h : Effect i c s t) (hs : s.fill ≤ s.peak) :
    t.peak = max s.peak t.fill := by
  have unchanged {u : State} (hp : u.peak = s.peak) (hf : u.fill ≤ s.fill) : u.peak = max s.peak u.fill := by omega
  cases h with
  | store => rfl
  | drop => exact unchanged rfl (Nat.sub_le _ _)
  | clear => exact unchanged rfl (Nat.zero_le _)
  | arrive b => exact rxArrive_peak b s
  | parse h =>
    obtain ⟨hfill, hpeak, -⟩ := h.keeps
    exact unchanged hpeak hfill
  | _ => exact unchanged rfl (Nat.le_refl _)

theorem Performed.peak {e : Event} {s t : State} (h : Performed e s t) (hr : e ≠ .reset) (hs : s.fill ≤ s.peak) :
    t.peak = max s.peak t.fill := by
  cases h with
  | command _ hx =>
    obtain ⟨c, r, u, rfl, he⟩ := exec_cases hx
    exact he.peak (s := respond .ok s) hs
  | rx b => exact rxArrive_peak b s
  | reset => exact absurd rfl hr
  | _ => exact (Nat.max_eq_left hs).symm

/-! ## Statements -/

/-- An 8-bit read of TX_PAYLOAD's window reads one byte of it (R37, R45). -/
theorem memRead_txByte (s : State) {i : Nat} (h : i < 512) :
    memRead (BitVec.ofNat 12 (0x600 + i)) .byte s = (txByte s i).setWidth 32 := by
  have ha : (BitVec.ofNat 12 (0x600 + i)).toNat = 0x600 + i := by rw [BitVec.toNat_ofNat]; omega
  rw [memRead, regionOf_txPayload.2 (by omega), ha]
  simp [AccessWidth.bytes, littleEndian]

/-- Settles O52. -/
theorem onlyHostWritesChangeTxPayload : Obligations.OnlyHostWritesChangeTxPayload :=
  ⟨fun s _ h => memRead_txByte s h, fun _ _ _ _ hi h hr hw => (performed_of_step hi h).txByte_eq hr hw⟩

/-- Settles O53. -/
theorem countersChangeOnlyByTheirOwnRules : Obligations.CountersChangeOnlyByTheirOwnRules :=
  fun _ _ _ _ hi h hr => (performed_of_step hi h).counters hr

/-- Settles O54: an idle step changes nothing, and any step but a CMD write and reset keeps RESULT and CAUSE. -/
theorem outcomeChangesOnlyByCommands : Obligations.OutcomeChangesOnlyByCommands := by
  intro s t h hne
  cases hi : s.inputs with
  | nil =>
    obtain rfl := Host.Outcome.next.inj ((step_nil hi).symm.trans h)
    exact absurd ⟨rfl, rfl⟩ hne
  | cons e rest =>
    refine ⟨rest, ?_⟩
    by_contra hno
    refine hne ((performed_of_step hi h).keepsOutcome (fun he => hno (.inl (by rw [he]))) fun w he => ?_)
    exact hno (.inr ⟨w, by rw [he]⟩)

/-- Settles O55. -/
theorem packetIsKeptUntilTheNextPacket : Obligations.PacketIsKeptUntilTheNextPacket :=
  fun _ _ _ _ hi h hr hp => (performed_of_step hi h).keepsPacket hr hp

/-- Settles O56. -/
theorem stickyFlagsStaySetUntilCleared : Obligations.StickyFlagsStaySetUntilCleared :=
  fun _ _ _ _ hi h hr => ⟨(performed_of_step hi h).ovf_cleared hr, (performed_of_step hi h).ill_cleared hr⟩

/-- Settles O57. -/
theorem peakIsTheHighWaterMark : Obligations.PeakIsTheHighWaterMark := by
  intro s t hring h hno
  obtain ⟨-, -, -, -, -, hle, -⟩ := hring
  cases hi : s.inputs with
  | nil =>
    obtain rfl := Host.Outcome.next.inj ((step_nil hi).symm.trans h)
    exact (Nat.max_eq_left hle).symm
  | cons e rest => exact (performed_of_step hi h).peak (fun he => hno rest (by rw [hi, he])) hle

end Sys2Proof.Machine
end

/-! SUPPORT. States a host cannot tell apart stay so (10_state.md R24): each operation, command and step takes two host
equivalent states to host equivalent states, by the rules in terms of the live bytes. -/
section
namespace Sys2Proof.Machine

/-- A run of writes keeps two storages that read alike at an index, each with its own unwritten value, alike there. -/
theorem Memory.storeAll_getD_congr {m m' : Memory} {i : Nat} {d d' : Byte}
    (h : (Memory.cellAt m' i).getD d' = (Memory.cellAt m i).getD d) (a : Nat) (bs : List Byte) :
    (Memory.cellAt (Memory.storeAll m' a bs) i).getD d' = (Memory.cellAt (Memory.storeAll m a bs) i).getD d := by
  rw [Memory.cellAt_storeAll, Memory.cellAt_storeAll]
  split
  · rw [List.getElem?_eq_getElem (by omega)]
    rfl
  · exact h

section
variable {s t : State}

/-! ## What a host sees of equivalent states -/

theorem ringByte_congr (h : HostEquivalent s t) {i : Nat} (hi : i < s.fill) : ringByte t i = ringByte s i := by
  obtain ⟨hlive, hfill, -⟩ := h
  rw [← live_getD s i hi 0, ← live_getD t i (hfill ▸ hi) 0, hlive]

theorem txBytes_congr (h : HostEquivalent s t) (n : Nat) : txBytes t n = txBytes s n := by
  obtain ⟨-, -, -, -, -, -, -, -, ⟨-, -, -, hbytes⟩, -⟩ := h
  exact List.map_congr_left fun i _ => hbytes i

theorem txCsum_congr (h : HostEquivalent s t) : txCsum t = txCsum s := by
  obtain ⟨-, -, -, -, -, -, -, -, ⟨hcode, hseq, hlen, -⟩, -⟩ := id h
  rw [txCsum, txCsum, txBytes_congr h, hcode, hseq, hlen]

theorem regRead_congr (h : HostEquivalent s t) (a : Offset) : regRead a t = regRead a s := by
  obtain ⟨-, hfill, hpeak, ⟨hovfCount, hovf⟩, ⟨hresult, hcause⟩, hill, ⟨hrx, herr, hcsum⟩, ⟨hpc, hps, hpl, -⟩,
    ⟨htc, hts, htl, -⟩, ⟨htx, -⟩, hcfg, -⟩ := h
  simp only [regRead, statusWord, okFlag, emptyFlag, fullFlag, pktHdrWord, txHdrWord, paramWord, hfill, hpeak,
    hovfCount, hovf, hresult, hcause, hill, hrx, herr, hcsum, hpc, hps, hpl, htc, hts, htl, htx, hcfg]

theorem memRead_congr (h : HostEquivalent s t) (a : Offset) (n : AccessWidth) : memRead a n t = memRead a n s := by
  obtain ⟨-, -, -, -, -, -, -, ⟨-, -, -, hpkt⟩, ⟨-, -, -, htx⟩, -⟩ := id h
  simp only [memRead, regRead_congr h, hpkt, htx]

/-! ## Operations -/

theorem finish_hostEquivalent (h : HostEquivalent s t) (c : Cause) (r : Word) :
    HostEquivalent (finish c r s) (finish c r t) := by
  obtain ⟨hlive, hfill, hpeak, hovf, -, hrest⟩ := h
  exact ⟨hlive, hfill, hpeak, hovf, ⟨rfl, rfl⟩, hrest⟩

theorem respond_hostEquivalent (h : HostEquivalent s t) (r : Response) :
    HostEquivalent (respond r s) (respond r t) := by
  obtain ⟨hlive, hfill, hpeak, hovf, hout, hill, hcounts, hpkt, htx, htxout, hcfg, hresets, hin, hresp⟩ := h
  exact ⟨hlive, hfill, hpeak, hovf, hout, hill, hcounts, hpkt, htx, htxout, hcfg, hresets, hin,
    congrArg (· ++ [r]) hresp⟩

theorem illegalCommand_hostEquivalent (h : HostEquivalent s t) :
    HostEquivalent (illegalCommand s) (illegalCommand t) := by
  obtain ⟨hlive, hfill, hpeak, hovf, -, -, hrest⟩ := h
  exact ⟨hlive, hfill, hpeak, hovf, ⟨rfl, rfl⟩, rfl, hrest⟩

theorem clearSticky_hostEquivalent (h : HostEquivalent s t) (v : Word) :
    HostEquivalent (clearSticky v s) (clearSticky v t) := by
  obtain ⟨hlive, hfill, hpeak, ⟨hovfCount, hovf⟩, hout, hill, hrest⟩ := h
  exact ⟨hlive, hfill, hpeak, ⟨hovfCount, congrArg (· && _) hovf⟩, hout, congrArg (· && _) hill, hrest⟩

theorem writeTxHdr_hostEquivalent (h : HostEquivalent s t) (v : Word) :
    HostEquivalent (writeTxHdr v s) (writeTxHdr v t) := by
  obtain ⟨hlive, hfill, hpeak, hovf, hout, hill, hcounts, hpkt, ⟨-, -, -, hbytes⟩, hrest⟩ := h
  exact ⟨hlive, hfill, hpeak, hovf, hout, hill, hcounts, hpkt, ⟨rfl, rfl, rfl, hbytes⟩, hrest⟩

theorem writeTxPayload_hostEquivalent (h : HostEquivalent s t) (a : Nat) (bs : List Byte) :
    HostEquivalent (writeTxPayload a bs s) (writeTxPayload a bs t) := by
  obtain ⟨hlive, hfill, hpeak, hovf, hout, hill, hcounts, hpkt, ⟨hcode, hseq, hlen, hbytes⟩, hrest⟩ := h
  exact ⟨hlive, hfill, hpeak, hovf, hout, hill, hcounts, hpkt,
    ⟨hcode, hseq, hlen, fun i => Memory.storeAll_getD_congr (hbytes i) a bs⟩, hrest⟩

theorem performReset_hostEquivalent (h : HostEquivalent s t) : HostEquivalent (performReset s) (performReset t) := by
  obtain ⟨-, -, -, -, -, -, -, -, -, -, hcfg, hresets, hin, hresp⟩ := h
  have hresets : (performReset t).resets = (performReset s).resets := congrArg (· + 1) hresets
  exact ⟨by rw [live_eq_nil.2 rfl, live_eq_nil.2 rfl], rfl, rfl, ⟨rfl, rfl⟩, ⟨rfl, rfl⟩, rfl, ⟨rfl, rfl, rfl⟩,
    ⟨rfl, rfl, rfl, pktByte_congr rfl hresets⟩, ⟨rfl, rfl, rfl, txByte_congr rfl hresets⟩, ⟨rfl, rfl⟩, hcfg, hresets,
    hin, hresp⟩

theorem rejectPush_hostEquivalent (h : HostEquivalent s t) : HostEquivalent (rejectPush s) (rejectPush t) := by
  obtain ⟨hlive, hfill, hpeak, ⟨hovfCount, -⟩, hrest⟩ := h
  exact ⟨hlive, hfill, hpeak, ⟨congrArg (· + 1) hovfCount, rfl⟩, hrest⟩

theorem storeByte_hostEquivalent (hs : RingInv s) (ht : RingInv t) (h : HostEquivalent s t)
    (hf : s.fill < s.cfg.rxCapacity) (b : Byte) : HostEquivalent (storeByte b s) (storeByte b t) := by
  obtain ⟨hlive, hfill, hpeak, hovf, hout, hrest⟩ := id h
  obtain ⟨-, -, -, -, -, hcfg, -⟩ := id hrest
  refine ⟨?_, congrArg (· + 1) hfill, ?_, hovf, hout, hrest⟩
  · rw [live_storeByte hs hf, live_storeByte ht (by rw [hfill, hcfg]; exact hf), hlive]
  · rw [storeByte_peak, storeByte_peak, hpeak, hfill]

theorem dropOldest_hostEquivalent (h : HostEquivalent s t) (k : Nat) :
    HostEquivalent (dropOldest k s) (dropOldest k t) := by
  obtain ⟨hlive, hfill, hrest⟩ := h
  exact ⟨by rw [live_dropOldest, live_dropOldest, hlive], congrArg (· - k) hfill, hrest⟩

theorem clearRing_hostEquivalent (h : HostEquivalent s t) : HostEquivalent (clearRing s) (clearRing t) := by
  obtain ⟨-, -, hrest⟩ := h
  exact ⟨by rw [live_eq_nil.2 rfl, live_eq_nil.2 rfl], rfl, hrest⟩

/-- An arrival evicts the same count from both rings and appends the same byte (R75). -/
theorem rxArrive_hostEquivalent (hs : RingInv s) (ht : RingInv t) (h : HostEquivalent s t) (b : Byte) :
    (rxArrive b t).1 = (rxArrive b s).1 ∧ HostEquivalent (rxArrive b s).2 (rxArrive b t).2 := by
  obtain ⟨-, hfill, -, -, -, -, -, -, -, -, hcfg, -⟩ := id h
  rcases rxArrive_cases b s with ⟨hf, es⟩ | ⟨hf, es⟩ <;> rcases rxArrive_cases b t with ⟨hf', et⟩ | ⟨hf', et⟩
  · rw [es, et, hfill, hcfg]
    have hk : min s.cfg.ovfChunk s.fill ≤ s.fill := Nat.min_le_right _ _
    have hroom : s.fill - min s.cfg.ovfChunk s.fill < s.cfg.rxCapacity := by
      obtain ⟨⟨-, -, -, -, hchunk, -⟩, -⟩ := hs
      omega
    exact ⟨rfl, storeByte_hostEquivalent (RingInv.dropOldest hs.rejectPush hk)
      (RingInv.dropOldest ht.rejectPush (hfill.symm ▸ hk))
      (dropOldest_hostEquivalent (rejectPush_hostEquivalent h) _) hroom b⟩
  · exact absurd hf (by rwa [hfill, hcfg] at hf')
  · exact absurd (by rwa [hfill, hcfg] at hf') hf
  · rw [es, et]
    obtain ⟨-, -, -, hle, -⟩ := id hs
    exact ⟨rfl, storeByte_hostEquivalent hs ht h (by omega) b⟩

/-- The same parse result leaves equivalent states: the same bytes dropped, the same packet delivered (R88). -/
theorem parsedState_hostEquivalent (h : HostEquivalent s t) (r : WireParse) :
    HostEquivalent (parsedState r s) (parsedState r t) := by
  obtain ⟨hlive, hfill, hpeak, hovf, hout, hill, ⟨hrx, herr, hcsum⟩, ⟨hcode, hseq, hlen, hbytes⟩, hrest⟩ := h
  have live_parsedState (u : State) : live (parsedState r u) = (live u).drop r.dropped :=
    (live_congr rfl rfl rfl rfl rfl).trans (live_dropOldest u r.dropped)
  refine ⟨by rw [live_parsedState, live_parsedState, hlive], congrArg (· - _) hfill, hpeak, hovf, hout, hill,
    ⟨congrArg (· + _) hrx, congrArg (· + _) herr, congrArg (· + _) hcsum⟩,
    ⟨congrArg (Option.getD _) hcode, congrArg (Option.getD _) hseq, congrArg (Option.getD _) hlen, fun i => ?_⟩, hrest⟩
  simp only [pktByte, parsedState]
  cases r.packet with
  | none => exact hbytes i
  | some p => exact Memory.storeAll_getD_congr (hbytes i) 0 p.payload

/-- ENCODE emits the same frame from both states (R107). -/
theorem emit_hostEquivalent (h : HostEquivalent s t) (bs : List Byte) :
    HostEquivalent { s with txout := s.txout ++ bs, txCount := s.txCount + 1 }
      { t with txout := t.txout ++ bs, txCount := t.txCount + 1 } := by
  obtain ⟨hlive, hfill, hpeak, hovf, hout, hill, hcounts, hpkt, htx, ⟨htxCount, htxout⟩, hrest⟩ := h
  exact ⟨hlive, hfill, hpeak, hovf, hout, hill, hcounts, hpkt, htx,
    ⟨congrArg (· + 1) htxCount, congrArg (· ++ bs) htxout⟩, hrest⟩

/-! ## Commands and steps -/

/-- A command takes equivalent states to equivalent states: which way it goes, and its RESULT, depend only on what both
states share. -/
theorem exec_hostEquivalent (hs : RingInv s) (ht : RingInv t) (h : HostEquivalent s t) (i : Instr) :
    ∃ s' t', exec i s = .next s' ∧ exec i t = .next t' ∧ HostEquivalent s' t' := by
  obtain ⟨hlive, hfill, -, -, -, -, -, -, ⟨hcode, hseq, hlen, -⟩, -, hcfg, -⟩ := id h
  have same (c : Cause) (r : Word) : HostEquivalent (finish c r s) (finish c r t) := finish_hostEquivalent h c r
  cases i with
  | push b =>
    by_cases hf : s.fill = s.cfg.rxCapacity
    · exact ⟨_, _, exec_push_full hf b, exec_push_full (by rw [hfill, hcfg, hf]) b,
        finish_hostEquivalent (rejectPush_hostEquivalent h) _ _⟩
    · obtain ⟨-, -, -, hle, -⟩ := id hs
      exact ⟨_, _, exec_push_room hf b, exec_push_room (by rwa [hfill, hcfg]) b,
        finish_hostEquivalent (storeByte_hostEquivalent hs ht h (by omega) b) _ _⟩
  | pop =>
    by_cases hf : s.fill = 0
    · exact ⟨_, _, exec_pop_empty hf, exec_pop_empty (hfill.trans hf), same _ _⟩
    · refine ⟨_, _, exec_pop_some hf, exec_pop_some (by rwa [hfill]), ?_⟩
      rw [ringByte_congr h (by omega)]
      exact finish_hostEquivalent (dropOldest_hostEquivalent h 1) _ _
  | peek =>
    by_cases hf : s.fill = 0
    · exact ⟨_, _, exec_peek_empty hf, exec_peek_empty (hfill.trans hf), same _ _⟩
    · refine ⟨_, _, exec_peek_some hf, exec_peek_some (by rwa [hfill]), ?_⟩
      rw [ringByte_congr h (by omega)]
      exact same _ _
  | peekAt n =>
    by_cases hf : s.fill ≤ n.toNat
    · exact ⟨_, _, exec_peekAt_range hf, exec_peekAt_range (by rwa [hfill]), same _ _⟩
    · refine ⟨_, _, exec_peekAt_some (by omega), exec_peekAt_some (by omega), ?_⟩
      rw [ringByte_congr h (by omega)]
      exact same _ _
  | discard n =>
    refine ⟨_, _, exec_discard n s, exec_discard n t, ?_⟩
    rw [hfill]
    exact finish_hostEquivalent (dropOldest_hostEquivalent h _) _ _
  | available => exact ⟨_, _, exec_available s, exec_available t, hfill ▸ same _ _⟩
  | free => exact ⟨_, _, exec_free s, exec_free t, hfill ▸ hcfg ▸ same _ _⟩
  | capacity => exact ⟨_, _, exec_capacity s, exec_capacity t, hcfg ▸ same _ _⟩
  | clear =>
    refine ⟨_, _, exec_clear s, exec_clear t, ?_⟩
    rw [hfill]
    exact finish_hostEquivalent (clearRing_hostEquivalent h) _ _
  | rxByte b =>
    obtain ⟨hcount, hstate⟩ := rxArrive_hostEquivalent hs ht h b
    refine ⟨_, _, exec_rxByte b s, exec_rxByte b t, ?_⟩
    rw [hcount]
    exact finish_hostEquivalent hstate _ _
  | parse =>
    refine ⟨_, _, exec_parse hs, exec_parse ht, ?_⟩
    rw [hlive, hcfg]
    exact finish_hostEquivalent (parsedState_hostEquivalent h _) _ _
  | checksum =>
    by_cases hl : s.txLen.toNat ≤ 512
    · refine ⟨_, _, exec_checksum_ok hl, exec_checksum_ok (by rwa [hlen]), ?_⟩
      rw [txCsum_congr h]
      exact same _ _
    · exact ⟨_, _, exec_checksum_long (by omega), exec_checksum_long (by rw [hlen]; omega), same _ _⟩
  | encode =>
    by_cases hl : s.txLen.toNat ≤ 512
    · have hsize : BitVec.ofNat 32 (7 + t.txLen.toNat) = BitVec.ofNat 32 (7 + s.txLen.toNat) := by rw [hlen]
      have hframe : wireFrame t.txCode t.txSeq (txBytes t t.txLen.toNat) =
          wireFrame s.txCode s.txSeq (txBytes s s.txLen.toNat) := by rw [hcode, hseq, hlen, txBytes_congr h]
      refine ⟨_, _, exec_encode_ok hl, exec_encode_ok (by rwa [hlen]), ?_⟩
      rw [hsize, hframe]
      exact finish_hostEquivalent (emit_hostEquivalent h _) _ _
    · exact ⟨_, _, exec_encode_long (by omega), exec_encode_long (by rw [hlen]; omega), same _ _⟩

theorem Performed.hostEquivalent {e : Event} {s' : State} (p : Performed e s s') (hs : RingInv s) (ht : RingInv t)
    (h : HostEquivalent s t) : ∃ t', Performed e t t' ∧ HostEquivalent s' t' := by
  cases p with
  | read ha => exact ⟨_, .read ha t, memRead_congr h _ _ ▸ respond_hostEquivalent h _⟩
  | readError ha => exact ⟨_, .readError ha t, respond_hostEquivalent h _⟩
  | writeError ha v => exact ⟨_, .writeError ha v t, respond_hostEquivalent h _⟩
  | @command w i _ _ hd hx =>
    obtain ⟨u, t', hu, ht', hut⟩ :=
      exec_hostEquivalent (s := respond .ok s) (t := respond .ok t) hs ht (respond_hostEquivalent h _) i
    obtain rfl := Host.Outcome.next.inj (hx.symm.trans hu)
    exact ⟨t', .command hd ht', hut⟩
  | illegalWord hd => exact ⟨_, .illegalWord hd t, illegalCommand_hostEquivalent (respond_hostEquivalent h _)⟩
  | writeStatus v => exact ⟨_, .writeStatus v t, clearSticky_hostEquivalent (respond_hostEquivalent h _) v⟩
  | writeTxHdr v => exact ⟨_, .writeTxHdr v t, writeTxHdr_hostEquivalent (respond_hostEquivalent h _) v⟩
  | writeTxPayload ha hr v =>
    exact ⟨_, .writeTxPayload ha hr v t, writeTxPayload_hostEquivalent (respond_hostEquivalent h _) _ _⟩
  | ignoredWrite ha h0 h8 h30 hr v => exact ⟨_, .ignoredWrite ha h0 h8 h30 hr v t, respond_hostEquivalent h _⟩
  | rx b => exact ⟨_, .rx b t, (rxArrive_hostEquivalent hs ht h b).2⟩
  | reset => exact ⟨_, .reset t, performReset_hostEquivalent h⟩

/-- Taking the next pending step off both lists keeps the states equivalent. -/
theorem popInput_hostEquivalent (h : HostEquivalent s t) (rest : List Event) :
    HostEquivalent { s with inputs := rest } { t with inputs := rest } := by
  obtain ⟨hlive, hfill, hpeak, hovf, hout, hill, hcounts, hpkt, htx, htxout, hcfg, hresets, -, hresp⟩ := h
  exact ⟨hlive, hfill, hpeak, hovf, hout, hill, hcounts, hpkt, htx, htxout, hcfg, hresets, rfl, hresp⟩

theorem step_hostEquivalent (hs : RingInv s) (ht : RingInv t) (h : HostEquivalent s t) :
    ∃ s' t', step s = .next s' ∧ step t = .next t' ∧ HostEquivalent s' t' := by
  obtain ⟨-, -, -, -, -, -, -, -, -, -, -, -, hin, -⟩ := id h
  cases hi : s.inputs with
  | nil => exact ⟨s, t, step_nil hi, step_nil (hin.trans hi), h⟩
  | cons e rest =>
    obtain ⟨s', ps⟩ := exists_performed e { s with inputs := rest }
    obtain ⟨t', pt, hst⟩ :=
      ps.hostEquivalent (t := { t with inputs := rest }) hs ht (popInput_hostEquivalent h rest)
    exact ⟨s', t', (step_cons hi).trans ps.perform_eq, (step_cons (hin.trans hi)).trans pt.perform_eq, hst⟩

end

/-- A run of the host's interface begins with its first step. -/
theorem run_succ {M : Host.Core} {s t : M.State} (h : M.step s = .next t) (n : Nat) : M.run (n + 1) s = M.run n t := by
  rw [Host.Core.run, h]

/-- Settles O58, by induction on the number of steps: each keeps the invariant of both states and their equivalence. -/
theorem hiddenRingStateCannotBeObserved : Obligations.HiddenRingStateCannotBeObserved := by
  intro n
  induction n with
  | zero => exact fun s t _ _ h => ⟨s, t, rfl, rfl, h⟩
  | succ n ih =>
    intro s t hs ht h
    obtain ⟨s₁, t₁, es, et, h₁⟩ := step_hostEquivalent hs.1 ht.1 h
    obtain ⟨s', t', rs, rt, h'⟩ :=
      ih s₁ t₁ (everyStepKeepsTheInvariant s s₁ hs es) (everyStepKeepsTheInvariant t t₁ ht et) h₁
    exact ⟨s', t', (run_succ (M := Sys2Proof.core) es n).trans rs, (run_succ (M := Sys2Proof.core) et n).trans rt, h'⟩

end Sys2Proof.Machine
end

/-! SUPPORT. The register file as read (10_state.md R25 to R35): STATUS bit by bit, and the header registers and PARAM
field by field. -/
section
namespace Sys2Proof.Machine

/-! ## STATUS -/

/-- No cause has a reserved code (R111). -/
theorem code_not_reserved (c : Cause) : c.code ∉ [0x7#4, 0xD#4, 0xE#4] := by cases c <;> decide

theorem code_eq_zero {c : Cause} : c.code = 0 ↔ c = .ok := by cases c <;> decide

/-- STATUS as its fields side by side, with the width of the concatenation, where the library's lemmas apply. -/
theorem statusWord_getLsbD (s : State) (i : Nat) : (statusWord s).getLsbD i =
    (0#20 ++ s.cause.code ++ 0#3 ++ BitVec.ofBool s.ill ++ BitVec.ofBool s.ovf ++ BitVec.ofBool (fullFlag s) ++
      BitVec.ofBool (emptyFlag s) ++ BitVec.ofBool (okFlag s)).getLsbD i := rfl

/-- Bits 4 to 0 of STATUS (R28). -/
theorem statusWord_flags (s : State) :
    (statusWord s).getLsbD 0 = okFlag s ∧ (statusWord s).getLsbD 1 = emptyFlag s ∧
      (statusWord s).getLsbD 2 = fullFlag s ∧ (statusWord s).getLsbD 3 = s.ovf ∧ (statusWord s).getLsbD 4 = s.ill := by
  simp only [statusWord_getLsbD, BitVec.getLsbD_append]
  simp

/-- Bits 31 to 5 of STATUS: its reserved bits and CAUSE (R28). -/
theorem statusWord_fields (s : State) :
    (statusWord s).extractLsb' 5 3 = 0 ∧ (statusWord s).extractLsb' 8 4 = s.cause.code ∧
      (statusWord s).extractLsb' 12 20 = 0 := by
  refine ⟨?_, ?_, ?_⟩ <;> ext i hi <;>
    simp only [BitVec.getElem_extractLsb', statusWord_getLsbD, BitVec.getLsbD_append]
  · simp
    omega
  · simp [hi, show ¬ 8 + i < 1 by omega]
  · simp
    omega

/-- Settles O20. -/
theorem statusReadsItsFields : Obligations.StatusReadsItsFields := by
  intro s
  obtain ⟨hok, hempty, hfull, hovf, hill⟩ := statusWord_flags s
  obtain ⟨hlow, hcause, hhigh⟩ := statusWord_fields s
  refine ⟨?_, ?_, ?_, hovf, hill, hlow, hcause, hhigh, hcause ▸ code_not_reserved s.cause⟩
  · rw [hok, okFlag, beq_iff_eq, code_eq_zero]
  · rw [hempty, emptyFlag, beq_iff_eq]
  · rw [hfull, fullFlag, beq_iff_eq]

/-! ## Headers and PARAM -/

theorem append_extract_low {m n : Nat} (x : BitVec m) (y : BitVec n) : (x ++ y).extractLsb' 0 n = y := by
  ext i hi
  simp [BitVec.getLsbD_append, hi]

theorem append_extract_high {m n : Nat} (x : BitVec m) (y : BitVec n) (k l : Nat) :
    (x ++ y).extractLsb' (n + k) l = x.extractLsb' k l := by
  ext i hi
  simp [BitVec.getLsbD_append, Nat.add_assoc]

/-- The fields of a word made of a half and two bytes, as PKT_HDR and TX_HDR are. -/
theorem extract_header (l : Half) (q c : Byte) :
    (l ++ q ++ c).extractLsb' 0 8 = c ∧ (l ++ q ++ c).extractLsb' 8 8 = q ∧ (l ++ q ++ c).extractLsb' 16 16 = l :=
  ⟨append_extract_low _ c, (append_extract_high (l ++ q) c 0 8).trans (append_extract_low l q),
    (append_extract_high (l ++ q) c 8 16).trans ((append_extract_high l q 0 16).trans BitVec.extractLsb'_eq_self)⟩

/-- A word is its header fields put together again. -/
theorem header_extract (v : Word) : v.extractLsb' 16 16 ++ v.extractLsb' 8 8 ++ v.extractLsb' 0 8 = v := by
  have h : v.extractLsb' 16 16 ++ v.extractLsb' 8 8 = v.extractLsb' 8 24 :=
    BitVec.extractLsb'_append_extractLsb'_eq_extractLsb' rfl
  rw [h]
  exact BitVec.extractLsb'_append_extractLsb' (w := 24) (len := 8)

/-- The fields of a word made of two halves, as PARAM is. -/
theorem extract_halves (h l : Half) : (h ++ l).extractLsb' 0 16 = l ∧ (h ++ l).extractLsb' 16 16 = h :=
  ⟨append_extract_low h l, (append_extract_high h l 0 16).trans BitVec.extractLsb'_eq_self⟩

/-- Settles O15: the ring's invariant makes the natural numbers of the state fit their fields. -/
theorem registersReadTheirState : Obligations.RegistersReadTheirState := by
  intro s hring
  obtain ⟨⟨-, hcap, -, hwin, -, hchunk, -⟩, -, -, hfill, -, -, hpeak⟩ := hring
  have word {n : Nat} (h : n ≤ 65535) : (BitVec.ofNat 32 n).toNat = n := by rw [BitVec.toNat_ofNat]; omega
  have half {n : Nat} (h : n ≤ 65535) : (BitVec.ofNat 16 n).toNat = n := by rw [BitVec.toNat_ofNat]; omega
  obtain ⟨hpc, hps, hpl⟩ := extract_header s.pktLen s.pktSeq s.pktCode
  obtain ⟨htc, hts, htl⟩ := extract_header s.txLen s.txSeq s.txCode
  obtain ⟨hwindow, hevict⟩ := extract_halves (BitVec.ofNat 16 s.cfg.ovfChunk) (BitVec.ofNat 16 s.cfg.scanWindow)
  exact ⟨rfl, rfl, rfl, word (by omega), word hcap, word (by omega), rfl, rfl, rfl, rfl, rfl, hpc, hps, hpl, htc, hts,
    htl, (congrArg _ hwindow).trans (half hwin), (congrArg _ hevict).trans (half (by omega))⟩

/-- Settles O18: the write keeps every bit, and ENCODE and CHECKSUM check the length it left. -/
theorem txHdrReadsBackAsWritten : Obligations.TxHdrReadsBackAsWritten := by
  intro s v rest hi
  refine ⟨_, (step_cons hi).trans (Performed.writeTxHdr v _).perform_eq, header_extract v, rfl, rfl, rfl,
    fun hlong => ?_⟩
  exact ⟨⟨_, exec_encode_long hlong, rfl, rfl⟩, _, exec_checksum_long hlong, rfl, rfl⟩

end Sys2Proof.Machine
end

/-! SUPPORT. The host port (20_memory.md R39 to R46): which accesses are legal, what a legal read returns, and what a
legal write does to its location. -/
section
namespace Sys2Proof.Machine

/-! ## Regions and legal accesses -/

/-- An offset lies in PKT_PAYLOAD's window exactly from 0x400 up to 0x600 (R40). -/
theorem regionOf_pktPayload {a : Offset} : regionOf a = .pktPayload ↔ 0x400 ≤ a.toNat ∧ a.toNat < 0x600 := by
  simp only [regionOf]
  repeat' split
  all_goals simp; omega

/-- An offset is reserved exactly between the registers and the windows and above them (R40). -/
theorem regionOf_reserved {a : Offset} :
    regionOf a = .reserved ↔ (0x038 ≤ a.toNat ∧ a.toNat < 0x400) ∨ 0x800 ≤ a.toNat := by
  simp only [regionOf]
  repeat' split
  all_goals simp; omega

theorem AccessWidth.bytes_eq_four {n : AccessWidth} : n.bytes = 4 ↔ n = .word := by cases n <;> decide

/-- An aligned access that begins before a word boundary ends by it (R41). -/
theorem aligned_access_end {a e : Nat} {n : AccessWidth} (h : a % n.bytes = 0) (he : e % 4 = 0) (ha : a < e) :
    a + n.bytes ≤ e := by
  cases n <;> simp only [AccessWidth.bytes] at h ⊢ <;> omega

/-- R41: the registers by aligned words, the payload windows aligned to the width, and nothing else. -/
theorem legalAccess_iff {a : Offset} {n : AccessWidth} :
    legalAccess a n = true ↔
      (a.toNat < 0x038 ∧ n.bytes = 4 ∧ a.toNat % 4 = 0) ∨
        (0x400 ≤ a.toNat ∧ a.toNat < 0x800 ∧ a.toNat % n.bytes = 0) := by
  cases hr : regionOf a with
  | registers =>
    have := regionOf_registers.1 hr
    simp only [legalAccess, hr, Bool.and_eq_true, beq_iff_eq, ← AccessWidth.bytes_eq_four]
    omega
  | reserved =>
    have := regionOf_reserved.1 hr
    simp only [legalAccess, hr, Bool.false_eq_true, false_iff]
    omega
  | pktPayload =>
    have := regionOf_pktPayload.1 hr
    simp only [legalAccess, hr, beq_iff_eq]
    omega
  | txPayload =>
    have := regionOf_txPayload.1 hr
    simp only [legalAccess, hr, beq_iff_eq]
    omega

/-- A legal access from 0x600 on is one to TX_PAYLOAD's window (R40, R41). -/
theorem regionOf_of_legal_high {a : Offset} {n : AccessWidth} (h : legalAccess a n = true) (ha : 0x600 ≤ a.toNat) :
    regionOf a = .txPayload := by
  have := legalAccess_iff.1 h
  exact regionOf_txPayload.2 (by omega)

/-- Settles O12. -/
theorem legalAccessesAreExactlyThoseListed : Obligations.LegalAccessesAreExactlyThoseListed := by
  intro a n
  refine ⟨?_, fun h => ?_⟩
  · rw [legalAccess_iff]
    omega
  · have hlegal := legalAccess_iff.1 h
    exact ⟨fun _ _ => aligned_access_end (by omega) rfl (by omega),
      fun _ => aligned_access_end (by omega) rfl (by omega)⟩

/-- Settles O13. -/
theorem illegalAccessOnlyAnswersBusError : Obligations.IllegalAccessOnlyAnswersBusError := by
  rintro s a n v rest h (hi | hi)
  · exact (step_cons hi).trans (Performed.readError h _).perform_eq
  · exact (step_cons hi).trans (Performed.writeError h v _).perform_eq

/-- Settles O19: the low 12 bits of a multiple of 4096 are 0. -/
theorem windowOffsetIsAddressLessBase : Obligations.WindowOffsetIsAddressLessBase := by
  rintro c a ⟨-, -, -, -, -, -, hbase⟩
  apply BitVec.eq_of_toNat_eq
  rw [busOffset, busAddress, BitVec.toNat_ofNat]
  omega

/-! ## Reads -/

/-- One more byte below the others, while all fit the bus word (R43). -/
theorem littleEndian_cons_toNat (b : Byte) {bs : List Byte} (h : (littleEndian bs).toNat < 2 ^ 24) :
    (littleEndian (b :: bs)).toNat = b.toNat + 2 ^ 8 * (littleEndian bs).toNat := by
  have hb := b.isLt
  rw [littleEndian, BitVec.toNat_or, BitVec.toNat_shiftLeft, Nat.shiftLeft_eq, BitVec.toNat_setWidth,
    Nat.mod_eq_of_lt (by omega), Nat.mod_eq_of_lt (by omega), Nat.or_comm, Nat.mul_comm,
    ← Nat.two_pow_add_eq_or_of_lt hb, Nat.add_comm]

theorem littleEndian_lt {bs : List Byte} (h : bs.length ≤ 4) : (littleEndian bs).toNat < 2 ^ (8 * bs.length) := by
  induction bs with
  | nil => decide
  | cons b bs ih =>
    rw [List.length_cons] at h ⊢
    have hb := b.isLt
    have hbs := ih (by omega)
    have hbound : 2 ^ (8 * bs.length) ≤ 2 ^ 24 := Nat.pow_le_pow_right (by decide) (by omega)
    rw [littleEndian_cons_toNat b (by omega), Nat.mul_add_one, Nat.pow_add]
    omega

/-- R43: the value of up to four consecutive bytes is `Σ byte[k] << 8k`. -/
theorem littleEndian_range_toNat {n : Nat} (h : n ≤ 4) (f : Nat → Byte) :
    (littleEndian ((List.range n).map f)).toNat = ((List.range n).map (fun k => (f k).toNat * 2 ^ (8 * k))).sum := by
  induction n generalizing f with
  | zero => rfl
  | succ n ih =>
    have hlt : (littleEndian ((List.range n).map (f ∘ Nat.succ))).toNat < 2 ^ 24 :=
      Nat.lt_of_lt_of_le (littleEndian_lt (by simp; omega)) (Nat.pow_le_pow_right (by decide) (by simp; omega))
    have hshift (k : Nat) : (f (k + 1)).toNat * 2 ^ (8 * (k + 1)) = 2 ^ 8 * ((f (k + 1)).toNat * 2 ^ (8 * k)) := by
      rw [Nat.mul_add_one, Nat.pow_add]
      ring
    rw [List.range_succ_eq_map, List.map_cons, List.map_map, littleEndian_cons_toNat _ hlt, ih (by omega)]
    simp only [List.map_cons, List.map_map, List.sum_cons, Function.comp_def, Nat.succ_eq_add_one, hshift,
      List.sum_map_mul_left, Nat.mul_zero, Nat.pow_zero, Nat.mul_one]

theorem AccessWidth.bytes_le_four (n : AccessWidth) : n.bytes ≤ 4 := by cases n <;> decide

theorem memRead_pktPayload_toNat {a : Offset} (ha : regionOf a = .pktPayload) (n : AccessWidth) (s : State) :
    (memRead a n s).toNat =
      ((List.range n.bytes).map (fun k => (pktByte s (a.toNat - 0x400 + k)).toNat * 2 ^ (8 * k))).sum := by
  rw [memRead, ha]
  exact littleEndian_range_toNat n.bytes_le_four _

theorem memRead_txPayload_toNat {a : Offset} (ha : regionOf a = .txPayload) (n : AccessWidth) (s : State) :
    (memRead a n s).toNat =
      ((List.range n.bytes).map (fun k => (txByte s (a.toNat - 0x600 + k)).toNat * 2 ^ (8 * k))).sum := by
  rw [memRead, ha]
  exact littleEndian_range_toNat n.bytes_le_four _

theorem memRead_register {a : Offset} (ha : regionOf a = .registers) (n : AccessWidth) (s : State) :
    memRead a n s = regRead a s := by rw [memRead, ha]

/-- Settles O14: the value is `memRead`'s, region by region. -/
theorem legalReadAnswersAndChangesNothing : Obligations.LegalReadAnswersAndChangesNothing := by
  intro s a n rest h hi
  refine ⟨memRead a n s, (step_cons hi).trans (Performed.read h _).perform_eq, ?_, fun ha => ?_, fun ha ha' => ?_,
    fun ha => ?_⟩
  · rintro rfl
    rfl
  · exact memRead_register (regionOf_registers.2 (by omega)) n s
  · exact memRead_pktPayload_toNat (regionOf_pktPayload.2 (by omega)) n s
  · exact memRead_txPayload_toNat (regionOf_of_legal_high h ha) n s

/-! ## Writes -/

/-- The W1C bits as choices: OVF and ILL are cleared where the bit is 1 and kept where it is 0 (R28, R46). -/
theorem clearSticky_eq (v : Word) (s : State) : clearSticky v s = { s with
    ovf := if v.getLsbD 3 then false else s.ovf, ill := if v.getLsbD 4 then false else s.ill } := by
  have keep (b f : Bool) : (f && !b) = if b then false else f := by cases b <;> simp
  rw [clearSticky, keep, keep]

@[simp] theorem lanes_length (v : Word) (n : Nat) : (lanes v n).length = n := by simp [lanes]

/-- A write to TX_PAYLOAD leaves lane `k` of its value in the `k`-th byte from its index (R44, R46). -/
theorem txByte_writeTxPayload_lane {n k : Nat} (h : k < n) (i : Nat) (v : Word) (s : State) :
    txByte (writeTxPayload i (lanes v n) s) (i + k) = v.extractLsb' (8 * k) 8 := by
  rw [txByte, writeTxPayload_txPayload, Memory.cellAt_storeAll, lanes_length, if_pos (by omega),
    Nat.add_sub_cancel_left]
  simp [lanes, lane, h]

/-- A write to TX_PAYLOAD leaves every other byte (R46). -/
theorem txByte_writeTxPayload_other {i j : Nat} {bs : List Byte} (h : j < i ∨ i + bs.length ≤ j) (s : State) :
    txByte (writeTxPayload i bs s) j = txByte s j := by
  rw [txByte, writeTxPayload_txPayload, Memory.cellAt_storeAll, if_neg (by omega)]
  rfl

/-- A legal write to CMD executes its word (R26, R46). -/
theorem hostWrite_cmd {n : AccessWidth} (h : legalAccess 0x000 n = true) (v : Word) (s : State) :
    hostWrite 0x000 n v s = execute v (respond .ok s) := by
  rw [hostWrite, if_pos h]
  rfl

/-- Settles O16, location by location. -/
theorem legalWriteTouchesOnlyItsLocation : Obligations.LegalWriteTouchesOnlyItsLocation := by
  intro s a n v rest h hi s₀
  have register_word (ha : a.toNat < 0x038) : n = .word := width_of_legalRegister h (regionOf_registers.2 ha)
  refine ⟨?_, ?_, ?_, fun ha => ?_, fun h0 h8 h30 ha => ?_⟩
  · rintro rfl
    exact (step_cons hi).trans (hostWrite_cmd h v _)
  · rintro rfl
    obtain rfl := register_word (by decide)
    rw [step_cons hi, (Performed.writeStatus v _).perform_eq, clearSticky_eq]
    rfl
  · rintro rfl
    obtain rfl := register_word (by decide)
    exact (step_cons hi).trans (Performed.writeTxHdr v _).perform_eq
  · have hwindow := regionOf_of_legal_high h ha
    refine ⟨_, (step_cons hi).trans (Performed.writeTxPayload h hwindow v _).perform_eq,
      fun k hk => txByte_writeTxPayload_lane hk _ v _, fun i ho => ?_, rfl⟩
    exact txByte_writeTxPayload_other (by rwa [lanes_length]) _
  · have hwindow : regionOf a ≠ .txPayload := fun hr => by
      have := regionOf_txPayload.1 hr
      omega
    exact (step_cons hi).trans (Performed.ignoredWrite h h0 h8 h30 hwindow v _).perform_eq

/-- R44 for any width: an aligned write inside TX_PAYLOAD's window sets its bytes, low byte first, and 8-bit reads
give them back one by one. -/
theorem txPayload_write_readBack {s : State} {i : Nat} {n : AccessWidth} {v : Word} {rest : List Event}
    (hn : i % n.bytes = 0) (hb : i < 512) (hi : s.inputs = .write (BitVec.ofNat 12 (0x600 + i)) n v :: rest) :
    ∃ t, step s = .next t ∧ ∀ j, j < n.bytes →
      txByte t (i + j) = v.extractLsb' (8 * j) 8 ∧
      memRead (BitVec.ofNat 12 (0x600 + i + j)) .byte t = (v.extractLsb' (8 * j) 8).setWidth 32 := by
  have ha : (BitVec.ofNat 12 (0x600 + i)).toNat = 0x600 + i := by rw [BitVec.toNat_ofNat]; omega
  have hend : i + n.bytes ≤ 512 := aligned_access_end hn rfl hb
  have haligned : (0x600 + i) % n.bytes = 0 := by cases n <;> simp only [AccessWidth.bytes] at hn ⊢ <;> omega
  have hlegal : legalAccess (BitVec.ofNat 12 (0x600 + i)) n = true :=
    legalAccess_iff.2 (.inr ⟨by omega, by omega, by rwa [ha]⟩)
  refine ⟨_, (step_cons hi).trans
    (Performed.writeTxPayload hlegal (regionOf_of_legal_high hlegal (by omega)) v _).perform_eq, fun j hj => ?_⟩
  rw [ha, Nat.add_sub_cancel_left, Nat.add_assoc, memRead_txByte _ (by omega), txByte_writeTxPayload_lane hj]
  exact ⟨rfl, rfl⟩

/-- Settles O17: word and half writes are aligned writes inside the window. -/
theorem mixedWidthAccessesSeeOneByteArray : Obligations.MixedWidthAccessesSeeOneByteArray := fun _ _ _ =>
  ⟨fun _ hk hi => txPayload_write_readBack (Nat.mul_mod_right 4 _) (by omega) hi,
    fun _ hk hi => txPayload_write_readBack (Nat.mul_mod_right 2 _) (by omega) hi⟩

end Sys2Proof.Machine
end

/-! SUPPORT. Runs and the transmit side: two ENCODEs in a row (20_memory.md R55, 43_transmit_encoder.md R107), and that
no arrival reaches it (20_memory.md R49, 70_reset_and_hazards.md R137). -/
section
namespace Sys2Proof.Machine

/-! ## Runs -/

/-- No step of the surroundings touches the steps still pending. -/
theorem Performed.inputs_eq {e : Event} {s t : State} (h : Performed e s t) : t.inputs = s.inputs := by
  cases h with
  | command _ hx =>
    obtain ⟨c, r, u, rfl, he⟩ := exec_cases hx
    obtain ⟨-, -, -, -, hinputs, -⟩ := he.keepsIllAndTxOperands
    exact hinputs
  | rx b =>
    obtain ⟨-, -, -, -, -, -, -, hinputs, -⟩ := rxArrive_keepsBesideRing b s
    exact hinputs
  | _ => rfl

/-- A run takes its first step, then goes on with the others (R137). -/
theorem runEvents_cons {e : Event} {es : List Event} {s t : State} (h : Performed e { s with inputs := es } t) :
    runEvents (e :: es) s = runEvents es t := by
  have hpending : { t with inputs := es } = t := by rw [← show t.inputs = es from h.inputs_eq]
  rw [runEvents, runEvents, hpending]
  have hstep : step { s with inputs := e :: es } = .next t := (step_cons rfl).trans h.perform_eq
  exact run_succ (M := Sys2Proof.core) (s := { s with inputs := e :: es }) hstep es.length

/-! ## ENCODE twice -/

theorem decode_encode_encode : decode (encode .encode) = .ok .encode := by decide

/-- The frame that the TX operands describe (R63, R107). -/
def txFrame (s : State) : List Byte := wireFrame s.txCode s.txSeq (txBytes s s.txLen.toNat)

@[simp] theorem txFrame_length (s : State) : (txFrame s).length = 7 + s.txLen.toNat := by simp [txFrame]

theorem txFrame_congr {s t : State} (h : KeepsTxOperands s t) : txFrame t = txFrame s := by
  obtain ⟨hcode, hseq, hlen, hbytes⟩ := h
  have hpayload (n : Nat) : txBytes t n = txBytes s n := List.map_congr_left fun i _ => hbytes i
  rw [txFrame, txFrame, hcode, hseq, hlen, hpayload]

/-- A run that begins with ENCODE of a payload that fits emits its frame first, and leaves the TX operands (R107). -/
theorem runEvents_encode {s : State} (h : s.txLen.toNat ≤ 512) (es : List Event) :
    ∃ t, runEvents (commandStep .encode :: es) s = runEvents es t ∧ t.txout = s.txout ++ txFrame s ∧
      t.txCount = s.txCount + 1 ∧ KeepsTxOperands s t := by
  have hx := exec_encode_ok (s := respond .ok { s with inputs := es }) h
  exact ⟨_, runEvents_cons (.command decode_encode_encode hx), rfl, rfl, rfl, rfl, rfl, fun _ => rfl⟩

/-- Settles O49: ENCODE leaves the TX operands, so the second emits the frame of the first. -/
theorem repeatedEncodeEmitsTheSameFrame : Obligations.RepeatedEncodeEmitsTheSameFrame := by
  intro s h
  obtain ⟨t, ht, hout, hcount, hkeeps⟩ := runEvents_encode h [commandStep .encode]
  obtain ⟨-, -, hlen, -⟩ := id hkeeps
  obtain ⟨u, hu, hout', hcount', -⟩ := runEvents_encode (s := t) (by rwa [hlen]) []
  refine ⟨txFrame s, { u with inputs := [] }, txFrame_length s, ht.trans hu, ?_, ?_⟩
  · exact hout'.trans (by rw [hout, txFrame_congr hkeeps])
  · exact hcount'.trans (by rw [hcount, BitVec.add_assoc]; rfl)

/-! ## The transmit side -/

/-- Two states alike in all that ENCODE and CHECKSUM read and ENCODE writes, and in the draw number, which decides what
a reset leaves in TX_PAYLOAD. -/
abbrev SameTransmit (s t : State) : Prop := KeepsTxOperands s t ∧ KeepsTxOutput s t ∧ t.resets = s.resets

section
variable {s t : State}

theorem SameTransmit.refl (s : State) : SameTransmit s s := ⟨⟨rfl, rfl, rfl, fun _ => rfl⟩, ⟨rfl, rfl⟩, rfl⟩

theorem SameTransmit.symm (h : SameTransmit s t) : SameTransmit t s := by
  obtain ⟨⟨hcode, hseq, hlen, hbytes⟩, ⟨hcount, hout⟩, hresets⟩ := h
  exact ⟨⟨hcode.symm, hseq.symm, hlen.symm, fun i => (hbytes i).symm⟩, ⟨hcount.symm, hout.symm⟩, hresets.symm⟩

theorem SameTransmit.trans {u : State} (h : SameTransmit s t) (h' : SameTransmit t u) : SameTransmit s u := by
  obtain ⟨⟨hcode, hseq, hlen, hbytes⟩, ⟨hcount, hout⟩, hresets⟩ := h
  obtain ⟨⟨hcode', hseq', hlen', hbytes'⟩, ⟨hcount', hout'⟩, hresets'⟩ := h'
  exact ⟨⟨hcode'.trans hcode, hseq'.trans hseq, hlen'.trans hlen, fun i => (hbytes' i).trans (hbytes i)⟩,
    ⟨hcount'.trans hcount, hout'.trans hout⟩, hresets'.trans hresets⟩

/-- Changes that keep each of two transmit sides keep them the same. -/
theorem SameTransmit.of_kept {s' t' : State} (h : SameTransmit s t) (hs : SameTransmit s s') (ht : SameTransmit t t') :
    SameTransmit s' t' := hs.symm.trans (h.trans ht)

/-- An arrival keeps the transmit side (R49, R76). -/
theorem sameTransmit_rxPortArrival (b : Byte) (s : State) : SameTransmit s (rxPortArrival b s) := by
  obtain ⟨-, -, -, hoperands, houtput, -, hresets, -⟩ := rxArrive_keepsBesideRing b s
  exact ⟨hoperands, houtput, hresets⟩

/-- Every command but ENCODE keeps the transmit side. -/
theorem sameTransmit_exec {i : Instr} (hi : i ≠ .encode) (h : exec i s = .next t) : SameTransmit s t := by
  obtain ⟨c, r, u, rfl, he⟩ := exec_cases h
  obtain ⟨-, hoperands, -, hresets, -⟩ := he.keepsIllAndTxOperands
  exact ⟨hoperands, he.keepsTxOutput hi, hresets⟩

/-- ENCODE emits the same frame, or none, from states with the same transmit side (R107). -/
theorem SameTransmit.exec_encode (h : SameTransmit s t) :
    ∃ s' t', exec .encode s = .next s' ∧ exec .encode t = .next t' ∧ SameTransmit s' t' := by
  obtain ⟨hoperands, ⟨hcount, hout⟩, hresets⟩ := id h
  obtain ⟨-, -, hlen, -⟩ := id hoperands
  by_cases hl : s.txLen.toNat ≤ 512
  · have hemitted : t.txout ++ txFrame t = s.txout ++ txFrame s := by rw [hout, txFrame_congr hoperands]
    exact ⟨_, _, exec_encode_ok hl, exec_encode_ok (by rwa [hlen]), hoperands, ⟨congrArg (· + 1) hcount, hemitted⟩,
      hresets⟩
  · exact ⟨_, _, exec_encode_long (by omega), exec_encode_long (by rw [hlen]; omega), h⟩

/-- Any command keeps two transmit sides the same, whatever else the states hold. -/
theorem SameTransmit.exec (h : SameTransmit s t) (i : Instr) :
    ∃ s' t', exec i s = .next s' ∧ exec i t = .next t' ∧ SameTransmit s' t' := by
  by_cases hi : i = .encode
  · subst hi
    exact h.exec_encode
  · obtain ⟨_, _, _, hs, -⟩ := exec_answers i s
    obtain ⟨_, _, _, ht, -⟩ := exec_answers i t
    exact ⟨_, _, hs, ht, h.of_kept (sameTransmit_exec hi hs) (sameTransmit_exec hi ht)⟩

/-- So does any step of the surroundings: the writes of the TX operands write the same to both. -/
theorem SameTransmit.performed (h : SameTransmit s t) {e : Event} {s' : State} (p : Performed e s s') :
    ∃ t', Performed e t t' ∧ SameTransmit s' t' := by
  obtain ⟨⟨hcode, hseq, hlen, hbytes⟩, houtput, hresets⟩ := id h
  cases p with
  | read ha => exact ⟨_, .read ha t, h⟩
  | readError ha => exact ⟨_, .readError ha t, h⟩
  | writeError ha v => exact ⟨_, .writeError ha v t, h⟩
  | @command w i _ _ hd hx =>
    obtain ⟨u, t', hu, ht, hut⟩ := SameTransmit.exec (s := respond .ok s) (t := respond .ok t) h i
    obtain rfl := Host.Outcome.next.inj (hx.symm.trans hu)
    exact ⟨t', .command hd ht, hut⟩
  | illegalWord hd => exact ⟨_, .illegalWord hd t, h⟩
  | writeStatus v => exact ⟨_, .writeStatus v t, h⟩
  | writeTxHdr v => exact ⟨_, .writeTxHdr v t, ⟨rfl, rfl, rfl, hbytes⟩, houtput, hresets⟩
  | writeTxPayload ha hr v =>
    exact ⟨_, .writeTxPayload ha hr v t,
      ⟨hcode, hseq, hlen, fun i => Memory.storeAll_getD_congr (hbytes i) _ _⟩, houtput, hresets⟩
  | ignoredWrite ha h0 h8 h30 hr v => exact ⟨_, .ignoredWrite ha h0 h8 h30 hr v t, h⟩
  | rx b => exact ⟨_, .rx b t, h.of_kept (sameTransmit_rxPortArrival b s) (sameTransmit_rxPortArrival b t)⟩
  | reset =>
    have hresets : (performReset t).resets = (performReset s).resets := congrArg (· + 1) hresets
    exact ⟨_, .reset t, ⟨rfl, rfl, rfl, txByte_congr rfl hresets⟩, ⟨rfl, rfl⟩, hresets⟩

end

theorem Event.isArrival_iff {e : Event} : e.isArrival = true ↔ ∃ b, e = .rx b := by
  cases e <;> simp [Event.isArrival]

/-- A run, and the same run without its arrivals from a state with the same transmit side, end with the same transmit
side. -/
theorem SameTransmit.runEvents_filter (es : List Event) {s t : State} (h : SameTransmit s t) :
    ∃ s' t', runEvents es s = .next s' ∧ runEvents (es.filter (fun e => !e.isArrival)) t = .next t' ∧
      SameTransmit s' t' := by
  induction es generalizing s t with
  | nil => exact ⟨_, _, rfl, rfl, h⟩
  | cons e es ih =>
    cases ha : e.isArrival with
    | true =>
      obtain ⟨b, rfl⟩ := Event.isArrival_iff.1 ha
      have harrived : SameTransmit (rxPortArrival b { s with inputs := es }) t :=
        h.of_kept (sameTransmit_rxPortArrival b { s with inputs := es }) (.refl t)
      rw [runEvents_cons (.rx b _), List.filter_cons_of_neg (by simp [ha])]
      exact ih harrived
    | false =>
      obtain ⟨s₁, ps⟩ := exists_performed e { s with inputs := es }
      obtain ⟨t₁, pt, h₁⟩ := SameTransmit.performed (s := { s with inputs := es })
        (t := { t with inputs := es.filter (fun e => !e.isArrival) }) h ps
      rw [runEvents_cons ps, List.filter_cons_of_pos (by simp [ha]), runEvents_cons pt]
      exact ih h₁

/-- Settles O59. -/
theorem arrivalsNeverReachTheTransmitSide : Obligations.ArrivalsNeverReachTheTransmitSide := by
  intro es s
  obtain ⟨t, u, ht, hu, hsame⟩ := (SameTransmit.refl s).runEvents_filter es
  obtain ⟨hoperands, houtput, -⟩ := hsame.symm
  exact ⟨t, u, ht, hu, hoperands, houtput⟩

end Sys2Proof.Machine
end

/-! SUPPORT. Command words (30_encoding.md R56 to R61, R68): a row of the match/mask table selects a word exactly when
the word is the encoding of the command the row builds, so decoding is the inverse of encoding; the legal words are
those that encode some command; and what the assembler makes of a line. -/
section
namespace Sys2Proof

/-! ## The rows of the table -/

/-- Every row's mask covers the low half, and its pattern lies in it (R59). -/
theorem rows_fix_the_low_half :
    ∀ r ∈ opcodeRows, r.mask &&& 0x0000FFFF = 0x0000FFFF ∧ r.pattern &&& 0x0000FFFF = r.pattern := by
  simp [opcodeRows]

/-- A row's pattern is the low half of every word that selects it (R59). -/
theorem pattern_of_selects {r : OpcodeRow} (hr : r ∈ opcodeRows) {w : Word} (h : w &&& r.mask = r.pattern) :
    r.pattern = w &&& 0x0000FFFF := by
  obtain ⟨hmask, hpattern⟩ := rows_fix_the_low_half r hr
  calc r.pattern = w &&& r.mask &&& 0x0000FFFF := by rw [h, hpattern]
    _ = w &&& 0x0000FFFF := by rw [BitVec.and_assoc, hmask]

/-- No two rows have one pattern (R59). -/
theorem patterns_nodup : (opcodeRows.map OpcodeRow.pattern).Nodup := by decide

/-- Two rows that select one word are one row (R59). -/
theorem row_unique {r q : OpcodeRow} (hr : r ∈ opcodeRows) (hq : q ∈ opcodeRows) {w : Word}
    (h : w &&& r.mask = r.pattern) (h' : w &&& q.mask = q.pattern) : r = q :=
  List.inj_on_of_nodup_map patterns_nodup hr hq ((pattern_of_selects hr h).trans (pattern_of_selects hq h').symm)

/-- The rows that select a word all have the word's low half as their pattern, and no pattern occurs twice. -/
theorem selecting_rows_length_le_one (w : Word) :
    (opcodeRows.filter (fun r => (w &&& r.mask) == r.pattern)).length ≤ 1 := by
  set rows := opcodeRows.filter (fun r => (w &&& r.mask) == r.pattern) with hrows
  have hsame : rows.map OpcodeRow.pattern = List.replicate rows.length (w &&& 0x0000FFFF) := by
    refine List.eq_replicate_iff.2 ⟨List.length_map _, ?_⟩
    simp only [hrows, List.mem_map, List.mem_filter, beq_iff_eq]
    rintro _ ⟨r, ⟨hr, hsel⟩, rfl⟩
    exact pattern_of_selects hr hsel
  have hnodup : (rows.map OpcodeRow.pattern).Nodup := patterns_nodup.sublist (List.filter_sublist.map _)
  rwa [hsame, List.nodup_replicate] at hnodup

/-- Decoding follows the row that selects the word (R60). -/
theorem decode_eq_ok_iff_row {w : Word} {i : Instr} :
    decode w = .ok i ↔ ∃ r ∈ opcodeRows, w &&& r.mask = r.pattern ∧ r.build w = i := by
  rw [decode]
  cases hfind : opcodeRows.find? (fun r => r.selects w) with
  | none =>
    have hnone : ∀ r ∈ opcodeRows, ¬ w &&& r.mask = r.pattern := by
      simpa [OpcodeRow.selects] using hfind
    exact ⟨nofun, fun ⟨r, hr, hsel, _⟩ => absurd hsel (hnone r hr)⟩
  | some q =>
    have hq := List.mem_of_find?_eq_some hfind
    have hsel : w &&& q.mask = q.pattern := by simpa [OpcodeRow.selects] using List.find?_some hfind
    constructor
    · rintro ⟨⟩
      exact ⟨q, hq, hsel, rfl⟩
    · rintro ⟨r, hr, hsel', rfl⟩
      rw [row_unique hr hq hsel' hsel]

/-- Settles O4: a selecting row's pattern is the word's low half, and the patterns differ. -/
theorem wordSelectsAtMostOneRow : Obligations.WordSelectsAtMostOneRow := fun w =>
  ⟨selecting_rows_length_le_one w, fun _ => decode_eq_ok_iff_row⟩

/-! ## A row selects exactly the words of its commands -/

/-- A count or offset row, for any OP (R57, R59). -/
theorem selects_count_iff {w : Word} (op : Byte) :
    w &&& 0x0000FFFF = commandWord 0 op ↔ commandWord (countOperand w) op = w := by
  have hw := w.isLt
  have ho := op.isLt
  have hzero : (0 : Half).toNat = 0 := rfl
  rw [BitVec.toNat_eq, BitVec.toNat_eq, and_mask_count, commandWord_toNat, commandWord_toNat, countOperand,
    BitVec.extractLsb'_toNat, Nat.shiftRight_eq_div_pow]
  omega

/-- A byte row, for any OP (R57, R59). -/
theorem selects_byte_iff {w : Word} (op : Byte) :
    w &&& 0xFF00FFFF = commandWord 0 op ↔ commandWord ((byteOperand w).setWidth 16) op = w := by
  have hw := w.isLt
  have ho := op.isLt
  have hzero : (0 : Half).toNat = 0 := rfl
  rw [BitVec.toNat_eq, BitVec.toNat_eq, and_mask_byte, commandWord_toNat, commandWord_toNat, byteOperand,
    BitVec.toNat_setWidth, BitVec.extractLsb'_toNat, Nat.shiftRight_eq_div_pow]
  omega

/-- A no-operand row, for any OP (R57, R59). -/
theorem selects_all_iff {w : Word} (op : Byte) : w &&& 0xFFFFFFFF = commandWord 0 op ↔ commandWord 0 op = w := by
  rw [and_mask_all, eq_comm]

/-- A row selects a word exactly when the word is that of the command the row builds from it. -/
theorem row_selects_iff (w : Word) : ∀ r ∈ opcodeRows, w &&& r.mask = r.pattern ↔ encode (r.build w) = w := by
  simp only [opcodeRows, List.forall_mem_cons]
  exact ⟨selects_byte_iff 0x01, selects_all_iff 0x02, selects_all_iff 0x03, selects_count_iff 0x04,
    selects_count_iff 0x05, selects_all_iff 0x06, selects_all_iff 0x07, selects_all_iff 0x08, selects_all_iff 0x09,
    selects_byte_iff 0x0A, selects_all_iff 0x10, selects_all_iff 0x20, selects_all_iff 0x21, nofun⟩

@[simp] theorem countOperand_commandWord (n : Half) (op : Byte) : countOperand (commandWord n op) = n :=
  commandWord_arg n op

@[simp] theorem byteOperand_commandWord (b op : Byte) : byteOperand (commandWord (b.setWidth 16) op) = b := by
  have hb := b.isLt
  have ho := op.isLt
  apply BitVec.eq_of_toNat_eq
  rw [byteOperand, BitVec.extractLsb'_toNat, commandWord_toNat, BitVec.toNat_setWidth, Nat.shiftRight_eq_div_pow]
  omega

/-- Every command has a row that builds it from its word: no bit of an operand is dropped (R57). -/
theorem exists_row_building (i : Instr) : ∃ r ∈ opcodeRows, r.build (encode i) = i := by
  cases i <;> simp [opcodeRows, encode]

/-- The decoder inverts the encoder, on every word. -/
theorem decode_eq_ok_iff {w : Word} {i : Instr} : decode w = .ok i ↔ encode i = w := by
  rw [decode_eq_ok_iff_row]
  constructor
  · rintro ⟨r, hr, hsel, rfl⟩
    exact (row_selects_iff w r hr).1 hsel
  · rintro rfl
    obtain ⟨r, hr, hbuild⟩ := exists_row_building i
    exact ⟨r, hr, (row_selects_iff _ r hr).2 (congrArg encode hbuild), hbuild⟩

@[simp] theorem decode_encode (i : Instr) : decode (encode i) = .ok i := decode_eq_ok_iff.2 rfl

/-- Settles O2: the row that builds a command from its word selects that word. -/
theorem decodeOfEncodeIsTheCommand : Obligations.DecodeOfEncodeIsTheCommand := decode_encode

/-- Settles O3: each row selects only the words of the commands it builds. -/
theorem encodeOfDecodeIsTheWord : Obligations.EncodeOfDecodeIsTheWord := fun _ _ => decode_eq_ok_iff.1

/-- Settles O1: each word is computed from its command by the encoder. -/
theorem specWordsDecodeToTheirCommands : Obligations.SpecWordsDecodeToTheirCommands := by
  refine ⟨?_, ?_, ?_, ?_, ?_, ?_, ?_, ?_, ?_⟩ <;> exact decode_eq_ok_iff.2 rfl

end Sys2Proof
end

/-! SUPPORT. The illegal words (30_encoding.md R61): R61's list, read as a check on the fields of a word, refuses exactly
the words that encode no command. The step that a CMD write takes (R60), and the assembler (R68). -/
section
namespace Sys2Proof

/-! ## The legal words are those that encode some command -/

/-- The encoder, written from R57 and R58, makes only words that R61's check passes. -/
theorem encode_wf (i : Instr) : (CommandWord.ofWord (encode i)).wf = true := by
  cases i with
  | push b => exact Laws.EncodesToLegalWord.push b
  | pop => exact Laws.EncodesToLegalWord.pop
  | peek => exact Laws.EncodesToLegalWord.peek
  | peekAt n => exact Laws.EncodesToLegalWord.peekAt n
  | discard n => exact Laws.EncodesToLegalWord.discard n
  | available => exact Laws.EncodesToLegalWord.available
  | free => exact Laws.EncodesToLegalWord.free
  | capacity => exact Laws.EncodesToLegalWord.capacity
  | clear => exact Laws.EncodesToLegalWord.clear
  | rxByte b => exact Laws.EncodesToLegalWord.rxByte b
  | parse => exact Laws.EncodesToLegalWord.parse
  | checksum => exact Laws.EncodesToLegalWord.checksum
  | encode => exact Laws.EncodesToLegalWord.encode

/-- What the check refuses, by operand form (R61). -/
theorem not_wf_iff (c : CommandWord) : ¬ c.wf = true ↔
    operandKindOf c.op = none ∨ c.rsv ≠ 0 ∨ (operandKindOf c.op = some .none ∧ c.arg ≠ 0) ∨
      (operandKindOf c.op = some .byte ∧ c.arg.extractLsb' 8 8 ≠ 0) := by
  rw [CommandWord.wf, Bool.and_eq_true, beq_iff_eq]
  cases operandKindOf c.op with
  | none => simp
  | some k => cases k <;> simp [imp_iff_not_or]

/-- A half with a zero high byte is its low byte. -/
theorem setWidth_low_of_high_zero {n : Half} (h : n.extractLsb' 8 8 = 0) : (n.setWidth 8).setWidth 16 = n := by
  have hn := n.isLt
  have hhigh : n.toNat / 2 ^ 8 % 2 ^ 8 = 0 := by
    rw [← Nat.shiftRight_eq_div_pow, ← BitVec.extractLsb'_toNat, h]
    rfl
  apply BitVec.eq_of_toNat_eq
  rw [BitVec.toNat_setWidth, BitVec.toNat_setWidth]
  omega

/-- A legal word's fields make the word of a command, OP by OP (R57, R58). -/
theorem exists_encode_of_wf {c : CommandWord} (h : c.wf = true) : ∃ i, encode i = commandWord c.arg c.op := by
  obtain ⟨op, rsv, arg⟩ := c
  rw [CommandWord.wf, Bool.and_eq_true] at h
  obtain ⟨-, harg⟩ := h
  unfold operandKindOf at harg
  split_ifs at harg with hbyte hcount hnone
  · have hbyteArg := setWidth_low_of_high_zero (beq_iff_eq.1 harg)
    obtain rfl | rfl := hbyte
    exacts [⟨.push (arg.setWidth 8), by rw [encode, hbyteArg]⟩, ⟨.rxByte (arg.setWidth 8), by rw [encode, hbyteArg]⟩]
  · obtain rfl | rfl := hcount
    exacts [⟨.peekAt arg, rfl⟩, ⟨.discard arg, rfl⟩]
  · obtain rfl : arg = 0 := beq_iff_eq.1 harg
    obtain rfl | rfl | rfl | rfl | rfl | rfl | rfl | rfl | rfl := hnone
    exacts [⟨.pop, rfl⟩, ⟨.peek, rfl⟩, ⟨.available, rfl⟩, ⟨.free, rfl⟩, ⟨.capacity, rfl⟩, ⟨.clear, rfl⟩, ⟨.parse, rfl⟩,
      ⟨.checksum, rfl⟩, ⟨.encode, rfl⟩]

/-- A word decodes to a command exactly when R61's check passes it. -/
theorem decodes_iff_wf (w : Word) : (∃ i, decode w = .ok i) ↔ (CommandWord.ofWord w).wf = true := by
  simp only [decode_eq_ok_iff]
  constructor
  · rintro ⟨i, rfl⟩
    exact encode_wf i
  · intro h
    have hrsv : w.extractLsb' 8 8 = 0 := by
      rw [CommandWord.wf, Bool.and_eq_true] at h
      obtain ⟨hrsv, -⟩ := h
      exact beq_iff_eq.1 hrsv
    obtain ⟨i, hi⟩ := exists_encode_of_wf h
    exact ⟨i, hi.trans (eq_commandWord_of_rsv hrsv).symm⟩

/-! ## R61's list of OPs -/

/-- The unassigned OPs (R61, first two bullets). -/
theorem operandKindOf_eq_none_iff : ∀ op : Byte, operandKindOf op = none ↔
    op.toNat = 0x00 ∨ (0x0B ≤ op.toNat ∧ op.toNat ≤ 0x0F) ∨ (0x11 ≤ op.toNat ∧ op.toNat ≤ 0x1F) ∨
      (0x22 ≤ op.toNat ∧ op.toNat ≤ 0xFF) := by decide

/-- The OPs of the no-operand commands (R58). -/
theorem operandKindOf_eq_noOperand_iff : ∀ op : Byte, operandKindOf op = some .none ↔
    op.toNat ∈ [0x02, 0x03, 0x06, 0x07, 0x08, 0x09, 0x10, 0x20, 0x21] := by decide

/-- The OPs of the byte-operand commands (R58). -/
theorem operandKindOf_eq_byte_iff : ∀ op : Byte, operandKindOf op = some .byte ↔ op.toNat ∈ [0x01, 0x0A] := by decide

/-! ## A write to CMD -/

namespace Machine

/-- A word that decodes to no command sets ILL, CAUSE and RESULT (R113). -/
theorem step_illegalWord {s : State} {w : Word} {rest : List Event} (hw : ¬ ∃ i, decode w = .ok i)
    (hi : s.inputs = commandWrite w :: rest) : step s = .next { s with
      inputs := rest, responses := s.responses ++ [.ok], ill := true, cause := .illegal, result := 0 } := by
  cases hd : decode w with
  | ok i => exact absurd ⟨i, hd⟩ hw
  | error r => exact (step_cons hi).trans (Performed.illegalWord hd _).perform_eq

/-- Settles O11. -/
theorem stepRunsTheDecodedCommand : Obligations.StepRunsTheDecodedCommand := by
  intro s w i rest hi hd
  calc step s = execute w (respond .ok { s with inputs := rest }) := (step_cons hi).trans (hostWrite_cmd rfl w _)
    _ = exec i { s with inputs := rest, responses := s.responses ++ [.ok] } := by rw [execute, hd]; rfl

end Machine

/-- Settles O5: R61's bullets are what its check refuses, written out OP by OP. -/
theorem illegalWordsAreExactlyThoseListed : Obligations.IllegalWordsAreExactlyThoseListed := by
  intro w
  refine ⟨?_, fun s rest => Machine.step_illegalWord⟩
  rw [decodes_iff_wf, not_wf_iff, operandKindOf_eq_none_iff, operandKindOf_eq_noOperand_iff, operandKindOf_eq_byte_iff]
  simp only [or_assoc]
  rfl

/-! ## The assembler -/

/-- A line that the check passes assembles to the word of its command (R68). -/
theorem assemble_decodes {m : Mnemonic} {o : Option Nat} (h : AsmLine.wf ⟨m, o⟩ = true) :
    (assemble ⟨m, o⟩).map decode = some (.ok (m.toInstr (o.getD 0))) := by
  rw [assemble, if_pos h, Option.map_some, decode_encode]

/-- A line that the check refuses is an assembly error (R68). -/
theorem assemble_error {m : Mnemonic} {o : Option Nat} (h : AsmLine.wf ⟨m, o⟩ = false) : assemble ⟨m, o⟩ = none := by
  rw [assemble, if_neg (by simp [h])]

/-- A mnemonic with an operand of at most `limit` assembles with such an operand only (R68). -/
theorem assemble_bounded {m : Mnemonic} {n limit : Nat} (hnone : AsmLine.wf ⟨m, none⟩ = false)
    (hsome : AsmLine.wf ⟨m, some n⟩ = decide (n ≤ limit)) :
    assemble ⟨m, none⟩ = none ∧ (n ≤ limit → (assemble ⟨m, some n⟩).map decode = some (.ok (m.toInstr n))) ∧
      (limit < n → assemble ⟨m, some n⟩ = none) :=
  ⟨assemble_error hnone, fun h => assemble_decodes (hsome.trans (decide_eq_true h)),
    fun h => assemble_error (hsome.trans (decide_eq_false (Nat.not_le.2 h)))⟩

/-- Settles O6: a line assembles exactly when `AsmLine.wf` passes it, and then to the word of its command. -/
theorem assemblerAcceptsExactlyItsOperands : Obligations.AssemblerAcceptsExactlyItsOperands := by
  refine ⟨by decide, by decide, by decide, fun m n => ⟨fun hk => ?_, fun hk => ?_, fun hk => ?_⟩⟩
  · have hline (o : Option Nat) : AsmLine.wf ⟨m, o⟩ = o.isNone := by cases o <;> simp [AsmLine.wf, hk]
    exact ⟨assemble_decodes (hline none), assemble_error (hline (some n))⟩
  · exact assemble_bounded (by simp [AsmLine.wf, hk]) (by simp [AsmLine.wf, hk])
  · exact assemble_bounded (by simp [AsmLine.wf, hk]) (by simp [AsmLine.wf, hk])

end Sys2Proof
end

/-! SUPPORT. The receive buffer's commands (40_receive_buffer.md R77 to R86): what finish, STORE and RX_ARRIVE leave
unchanged, then each command in terms of the live bytes. -/
section
namespace Sys2Proof.Machine

/-! ## Operations -/

@[simp] theorem live_finish (c : Cause) (r : Word) (s : State) : live (finish c r s) = live s :=
  live_congr rfl rfl rfl rfl rfl

/-- R112: ending a command writes CAUSE and RESULT and nothing else. -/
theorem finish_keepsAllButOutcome (c : Cause) (r : Word) (s : State) : KeepsAllButOutcome s (finish c r s) :=
  ⟨⟨fun _ => rfl, rfl, rfl, rfl, rfl⟩, ⟨rfl, rfl⟩, keepsBesideRing_refl s⟩

theorem slot_storeByte_of_ne {s : State} {j : Nat} (h : j ≠ s.wr) (b : Byte) : slot (storeByte b s) j = slot s j := by
  rw [slot_storeByte, if_neg h]

/-- A cursor one slot on, with its wrap-around written out. -/
theorem succ_mod_eq_ite {r c : Nat} (h : r < c) : (r + 1) % c = if r = c - 1 then 0 else r + 1 := by
  split
  · rw [show r + 1 = c by omega, Nat.mod_self]
  · exact Nat.mod_eq_of_lt (by omega)

/-- A value within the ring's size is read back whole from a 32-bit RESULT (R9). -/
theorem RingInv.ofNat_toNat {s : State} (h : RingInv s) {n : Nat} (hn : n ≤ s.cfg.rxCapacity) :
    (BitVec.ofNat 32 n).toNat = n := by
  obtain ⟨⟨-, hcap, -⟩, -⟩ := h
  rw [BitVec.toNat_ofNat]
  omega

theorem rxArrive_room {s : State} (h : s.fill ≠ s.cfg.rxCapacity) (b : Byte) : rxArrive b s = (0, storeByte b s) := by
  rcases rxArrive_cases b s with ⟨hf, -⟩ | ⟨-, e⟩
  · exact absurd hf h
  · exact e

theorem rxArrive_full {s : State} (h : RingInv s) (hf : s.fill = s.cfg.rxCapacity) (b : Byte) :
    rxArrive b s = (s.cfg.ovfChunk, storeByte b (dropOldest s.cfg.ovfChunk (rejectPush s))) := by
  rcases rxArrive_cases b s with ⟨-, e⟩ | ⟨hne, -⟩
  · rw [e, evicted_eq_chunk h hf]
  · exact absurd hf hne

/-- An arrival writes the one slot at WR, and moves WR past it, with or without an eviction (R72, R75). -/
theorem rxArrive_wr_slot (b : Byte) (s : State) :
    (rxArrive b s).2.wr = (s.wr + 1) % s.cfg.rxCapacity ∧ ∀ j, j ≠ s.wr → slot (rxArrive b s).2 j = slot s j := by
  rcases rxArrive_cases b s with ⟨-, e⟩ | ⟨-, e⟩ <;> rw [e]
  · exact ⟨rfl, fun j hj => slot_storeByte_of_ne (s := dropOldest _ (rejectPush s)) hj b⟩
  · exact ⟨rfl, fun j hj => slot_storeByte_of_ne hj b⟩

/-- PEAK stands at the capacity while the ring is full (R20). -/
theorem RingInv.peak_of_full {s : State} (h : RingInv s) (hf : s.fill = s.cfg.rxCapacity) :
    s.peak = s.cfg.rxCapacity := by
  obtain ⟨-, -, -, -, -, hle, hpeak⟩ := h
  omega

/-! ## Storing -/

/-- Settles O23: a full ring rejects the byte, a ring with room stores it. -/
theorem pushAppendsOrIsRejected : Obligations.PushAppendsOrIsRejected := by
  intro b s h
  by_cases hf : s.fill = s.cfg.rxCapacity
  · exact ⟨_, exec_push_full hf b, keepsBesideRing_refl s,
      fun _ => ⟨⟨rfl, rfl⟩, ⟨fun _ => rfl, rfl, rfl, rfl, rfl⟩, rfl, rfl⟩, fun hlt => absurd hf (Nat.ne_of_lt hlt)⟩
  · exact ⟨_, exec_push_room hf b, keepsBesideRing_refl s, fun hfull => absurd hfull hf,
      fun hlt => ⟨⟨rfl, rfl⟩, live_storeByte h hlt b, rfl, rfl, rfl, rfl, fun _ hj => slot_storeByte_of_ne hj b,
        rfl, rfl⟩⟩

/-- Settles O30: the arrival is RX_ARRIVE, which leaves PEAK at the capacity of a full ring, as a chunk is at least one
byte. -/
theorem arrivalIsStoredEvictingAChunkWhenFull : Obligations.ArrivalIsStoredEvictingAChunkWhenFull := by
  intro b s rest h hi
  obtain ⟨⟨-, -, -, -, hchunk, -⟩, -⟩ := id h
  have h' : RingInv { s with inputs := rest } := h
  obtain ⟨hill, hcounts, hpkt, htx, hout, hcfg, hresets, hinputs, hresponses⟩ :=
    rxArrive_keepsBesideRing b { s with inputs := rest }
  obtain ⟨hwr, hslot⟩ := rxArrive_wr_slot b { s with inputs := rest }
  refine ⟨_, step_cons hi, hinputs, hresponses, rxArrive_keepsOutcome b _, hcfg, hresets, hill, hcounts, hpkt, htx,
    hout, hslot, hwr, fun hlt => ⟨live_rxArrive_room h' hlt b, ?_⟩, fun hf => ⟨live_rxArrive_full h' hf b, ?_⟩⟩
  · rw [rxPortArrival, rxArrive_room (s := { s with inputs := rest }) (Nat.ne_of_lt hlt)]
    exact ⟨rfl, rfl, rfl, rfl, rfl⟩
  · rw [rxPortArrival, rxArrive_full h' hf]
    refine ⟨?_, rfl, ?_, rfl, rfl⟩
    · show s.fill - s.cfg.ovfChunk + 1 = _
      rw [hf]
    · show max s.peak (s.fill - s.cfg.ovfChunk + 1) = s.peak
      have := h.peak_of_full hf
      omega

/-- Settles O31: both run RX_ARRIVE, and RXBYTE's CAUSE and RESULT tell how many bytes it evicted. -/
theorem rxByteIsAnArrivalWithAnOutcome : Obligations.RxByteIsAnArrivalWithAnOutcome := by
  intro b s h
  obtain ⟨⟨-, -, -, -, hchunk, hle, -⟩, -⟩ := id h
  refine ⟨_, _, exec_rxByte b s, rfl, rfl, fun hlt => ?_, fun hf => ?_⟩
  · rw [rxArrive_room (Nat.ne_of_lt hlt)]
    exact ⟨rfl, rfl⟩
  · rw [rxArrive_full h hf]
    exact ⟨if_neg (by omega), h.ofNat_toNat hle⟩

/-! ## Removing -/

/-- Settles O24. -/
theorem popRemovesTheOldestByte : Obligations.PopRemovesTheOldestByte := by
  intro s h
  obtain ⟨-, hrd, -⟩ := h
  by_cases hf : s.fill = 0
  · exact ⟨_, exec_pop_empty hf, fun _ => ⟨⟨rfl, rfl⟩, finish_keepsAllButOutcome _ _ s⟩,
      fun hpos => absurd hf (Nat.ne_of_gt hpos)⟩
  · exact ⟨_, exec_pop_some hf, fun hz => absurd hz hf,
      fun hpos => ⟨_, live_eq_cons hpos, ⟨rfl, rfl⟩, rfl, succ_mod_eq_ite hrd, rfl, rfl, fun _ => rfl, ⟨rfl, rfl⟩,
        keepsBesideRing_refl s⟩⟩

/-- Settles O27. -/
theorem discardRemovesUpToItsCount : Obligations.DiscardRemovesUpToItsCount := by
  intro n s h
  obtain ⟨-, -, -, hfill, -⟩ := id h
  have hlive : live (dropOldest (min n.toNat s.fill) s) = (live s).drop n.toNat := by
    rw [live_dropOldest, List.drop_eq_drop_iff, live_length, Nat.min_assoc, Nat.min_self]
  exact ⟨_, exec_discard n s, rfl, h.ofNat_toNat (Nat.le_trans (Nat.min_le_right _ _) hfill), hlive, rfl, rfl, rfl, rfl,
    fun _ => rfl, ⟨rfl, rfl⟩, keepsBesideRing_refl s⟩

/-- Settles O29. -/
theorem clearEmptiesTheRingAndKeepsDiagnostics : Obligations.ClearEmptiesTheRingAndKeepsDiagnostics := by
  intro s h
  obtain ⟨-, -, -, hfill, -⟩ := id h
  exact ⟨_, exec_clear s, rfl, h.ofNat_toNat hfill, live_eq_nil.2 rfl, rfl, rfl, rfl, rfl, fun _ => rfl, ⟨rfl, rfl⟩,
    keepsBesideRing_refl s⟩

/-! ## Reporting -/

/-- Settles O25: the second PEEK meets the ring, and the outcome, of the first. -/
theorem peekReturnsTheOldestByteAndKeepsIt : Obligations.PeekReturnsTheOldestByteAndKeepsIt := by
  intro s
  by_cases hf : s.fill = 0
  · refine ⟨_, exec_peek_empty hf, finish_keepsAllButOutcome _ _ s, fun _ => ⟨rfl, rfl⟩, fun b bs hl => ?_⟩
    rw [live_eq_nil.2 hf] at hl
    cases hl
  · refine ⟨_, exec_peek_some hf, finish_keepsAllButOutcome _ _ s, fun hz => absurd hz hf, fun b bs hl => ?_⟩
    obtain ⟨rfl, -⟩ := List.cons.inj ((live_eq_cons (Nat.pos_of_ne_zero hf)).symm.trans hl)
    exact ⟨⟨rfl, rfl⟩, exec_peek_some (s := finish .ok _ s) hf⟩

/-- Settles O26. -/
theorem peekAtReturnsTheByteAtItsOffset : Obligations.PeekAtReturnsTheByteAtItsOffset := by
  intro n s
  rcases Nat.lt_or_ge n.toNat s.fill with hn | hn
  · refine ⟨_, exec_peekAt_some hn, finish_keepsAllButOutcome _ _ s, fun hle => absurd hn (Nat.not_lt.2 hle),
      fun b hb => ?_⟩
    obtain rfl := Option.some.inj ((live_getElem? s _ hn).symm.trans hb)
    exact ⟨rfl, rfl⟩
  · refine ⟨_, exec_peekAt_range hn, finish_keepsAllButOutcome _ _ s, fun _ => ⟨rfl, rfl⟩, fun b hb => ?_⟩
    rw [List.getElem?_eq_none (by simpa using hn)] at hb
    cases hb

/-- Settles O28: the ring's invariant makes FILL, the free space and the capacity fit RESULT. -/
theorem reportCommandsReturnTheFillAndSpace : Obligations.ReportCommandsReturnTheFillAndSpace := by
  intro s h
  obtain ⟨⟨hcap, -⟩, -, -, hfill, -⟩ := id h
  have hfree := h.ofNat_toNat (Nat.sub_le s.cfg.rxCapacity s.fill)
  have hused := h.ofNat_toNat hfill
  obtain ⟨-, hempty, hfull, -⟩ := statusReadsItsFields s
  refine ⟨⟨_, exec_available s, finish_keepsAllButOutcome _ _ s, rfl, hused, rfl, hused.trans_le hfill⟩,
    ⟨_, exec_free s, finish_keepsAllButOutcome _ _ s, rfl, hfree, ?_, ?_⟩,
    ⟨_, exec_capacity s, finish_keepsAllButOutcome _ _ s, rfl, h.ofNat_toNat (Nat.le_refl _), rfl⟩⟩
  · rw [finish_result, hfull, BitVec.toNat_eq, hfree]
    show s.cfg.rxCapacity - s.fill = 0 ↔ _
    omega
  · rw [finish_result, hempty, hfree]
    omega

end Sys2Proof.Machine
end

/-! SUPPORT. Histories of the ring (40_receive_buffer.md R87): bytes leave it oldest first, only a push into a full ring
counts an overflow, and a history of stores and drops is first in, first out. -/
section
namespace Sys2Proof.Machine

/-! ## Order -/

/-- PARSE short of a packet removes some of the oldest bytes (R91, R93, R96). -/
theorem Trims.live_eq {s t : State} (h : Trims s t) : ∃ k, k + t.fill = s.fill ∧ live t = (live s).drop k := by
  induction h with
  | refl => exact ⟨0, Nat.zero_add _, rfl⟩
  | @drop t j _ hj ih =>
    obtain ⟨k, hk, hlive⟩ := ih
    refine ⟨k + j, ?_, by rw [live_dropOldest, hlive, List.drop_drop]⟩
    rw [dropOldest_fill]
    omega
  | err _ ih => exact ih
  | csumErr _ ih => exact ih

/-- Every PARSE removes some of the oldest bytes: a packet it delivers is the oldest bytes left (R97). -/
theorem Parsed.live_eq {s t : State} {o : ParseOutcome} (h : Parsed s o t) :
    ∃ k, k ≤ s.fill ∧ live t = (live s).drop k := by
  cases h with
  | nothing _ h =>
    obtain ⟨k, hk, hlive⟩ := h.live_eq
    exact ⟨k, by omega, hlive⟩
  | @packet t L h _ hf =>
    obtain ⟨k, hk, hlive⟩ := h.live_eq
    refine ⟨k + (headerSize + L + footerSize), by omega, ?_⟩
    have haccept : live (acceptPacket L t) = live (dropOldest (headerSize + L + footerSize) t) :=
      live_congr rfl rfl rfl rfl rfl
    rw [haccept, live_dropOldest, hlive, List.drop_drop]

/-- An arrival removes none or a chunk of the oldest bytes and appends its own (R75). -/
theorem live_rxArrive {s : State} (h : RingInv s) (b : Byte) :
    ∃ k, k ≤ s.fill ∧ live (rxArrive b s).2 = (live s).drop k ++ [b] := by
  obtain ⟨⟨-, -, -, -, -, hle, -⟩, -, -, hfill, -⟩ := id h
  rcases Nat.lt_or_eq_of_le hfill with hlt | hf
  · exact ⟨0, Nat.zero_le _, live_rxArrive_room h hlt b⟩
  · exact ⟨_, hf ▸ hle, live_rxArrive_full h hf b⟩

/-- R87: no effect of a command reorders the ring; only PUSH and RXBYTE append, each its own byte. -/
theorem Effect.live_eq {i : Instr} {c : Cause} {s t : State} (h : Effect i c s t) (hs : RingInv s) :
    ∃ k, k ≤ s.fill ∧
      (live t = (live s).drop k ∨ ∃ b, (i = .push b ∨ i = .rxByte b) ∧ live t = (live s).drop k ++ [b]) := by
  cases h with
  | store b _ hf =>
    obtain ⟨-, -, -, hfill, -⟩ := id hs
    exact ⟨0, Nat.zero_le _, .inr ⟨b, .inl rfl, live_storeByte hs (Nat.lt_of_le_of_ne hfill hf) b⟩⟩
  | @drop _ _ _ k hk => exact ⟨k, hk, .inl (live_dropOldest s k)⟩
  | clear =>
    have hempty : live (clearRing s) = [] := live_eq_nil.2 rfl
    exact ⟨s.fill, Nat.le_refl _, .inl (by rw [hempty, ← live_length s, List.drop_length])⟩
  | arrive b =>
    obtain ⟨k, hk, hlive⟩ := live_rxArrive hs b
    exact ⟨k, hk, .inr ⟨b, .inr rfl, hlive⟩⟩
  | parse h =>
    obtain ⟨k, hk, hlive⟩ := h.live_eq
    exact ⟨k, hk, .inl hlive⟩
  | _ => exact ⟨0, Nat.zero_le _, .inl (live_congr rfl rfl rfl rfl rfl)⟩

/-- Settles O32: each effect a command can have keeps the order of the bytes. -/
theorem bytesLeaveTheRingInOrder : Obligations.BytesLeaveTheRingInOrder := by
  intro i s t hs h
  obtain ⟨c, r, u, rfl, he⟩ := exec_cases h
  rw [live_finish]
  exact he.live_eq hs

/-! ## Overflow -/

/-- From `s` to `t` one overflow is counted when the ring of `s` is full, and none when it has room (R74). -/
abbrev CountsOverflowWhenFull (s t : State) : Prop :=
  (s.fill = s.cfg.rxCapacity → t.ovfCount = s.ovfCount + 1 ∧ t.ovf = true) ∧
    (s.fill ≠ s.cfg.rxCapacity → KeepsOverflow s t)

theorem rxArrive_countsOverflow (b : Byte) (s : State) : CountsOverflowWhenFull s (rxArrive b s).2 := by
  rcases rxArrive_cases b s with ⟨hf, e⟩ | ⟨hf, e⟩ <;> rw [e]
  · exact ⟨fun _ => ⟨rfl, rfl⟩, fun hne => absurd hf hne⟩
  · exact ⟨fun hfull => absurd hfull hf, fun _ => ⟨rfl, rfl⟩⟩

theorem pushPrim_countsOverflow (b : Byte) (s : State) : CountsOverflowWhenFull s (pushPrim b s).2 := by
  rcases pushPrim_cases b s with ⟨hf, e⟩ | ⟨hf, e⟩ <;> rw [e]
  · exact ⟨fun _ => ⟨rfl, rfl⟩, fun hne => absurd hf hne⟩
  · exact ⟨fun hfull => absurd hfull hf, fun _ => ⟨rfl, rfl⟩⟩

/-- PUSH is PUSH_PRIM with an outcome (R77). -/
theorem exec_push (b : Byte) (s : State) :
    exec (.push b) s = .next (finish (if (pushPrim b s).1 then .ok else .full) (if (pushPrim b s).1 then 1 else 0)
      (pushPrim b s).2) := by
  rcases pushPrim_cases b s with ⟨hf, e⟩ | ⟨hf, e⟩ <;> rw [e]
  · exact exec_push_full hf b
  · exact exec_push_room hf b

/-- Settles O33: PUSH and RXBYTE by what their primitives count, every other command by its effect. -/
theorem onlyRejectedPushesCountOverflow : Obligations.OnlyRejectedPushesCountOverflow := by
  intro i s t h
  by_cases hi : ∃ b, i = .push b ∨ i = .rxByte b
  · have hcount : CountsOverflowWhenFull s t := by
      obtain ⟨b, rfl | rfl⟩ := hi
      · obtain rfl := Host.Outcome.next.inj ((exec_push b s).symm.trans h)
        exact pushPrim_countsOverflow b s
      · obtain rfl := Host.Outcome.next.inj ((exec_rxByte b s).symm.trans h)
        exact rxArrive_countsOverflow b s
    exact ⟨fun _ => hcount.1, fun hno => hcount.2 fun hf => hno ⟨hi, hf⟩⟩
  · obtain ⟨c, r, u, rfl, he⟩ := exec_cases h
    have hother (b : Byte) : i ≠ .push b ∧ i ≠ .rxByte b := not_or.1 fun e => hi ⟨b, e⟩
    exact ⟨fun hb => absurd hb hi, fun _ => he.keepsOverflow hother⟩

/-! ## First in, first out -/

@[simp] theorem stored_store (b : Byte) (us : List RingUse) :
    RingUse.stored (.store b :: us) = b :: RingUse.stored us := rfl

@[simp] theorem stored_drop (k : Nat) (us : List RingUse) : RingUse.stored (.drop k :: us) = RingUse.stored us := rfl

@[simp] theorem dropped_store (b : Byte) (us : List RingUse) :
    RingUse.dropped (.store b :: us) = RingUse.dropped us := by
  simp [RingUse.dropped]

@[simp] theorem dropped_drop (k : Nat) (us : List RingUse) :
    RingUse.dropped (.drop k :: us) = k + RingUse.dropped us := by
  simp [RingUse.dropped]

/-- From any ring, a history leaves the bytes that were live and then the stored ones, less those dropped. -/
theorem live_history (us : List RingUse) {s : State} (hs : RingInv s) (ha : RingUse.allowed us s) :
    live (us.foldl RingUse.apply s) = (live s ++ RingUse.stored us).drop (RingUse.dropped us) := by
  induction us generalizing s with
  | nil => exact (List.append_nil _).symm
  | cons u us ih =>
    cases u with
    | store b =>
      obtain ⟨hroom, ha⟩ := ha
      calc live (us.foldl RingUse.apply (storeByte b s))
        _ = (live (storeByte b s) ++ RingUse.stored us).drop (RingUse.dropped us) := ih (hs.storeByte hroom b) ha
        _ = (live s ++ RingUse.stored (.store b :: us)).drop (RingUse.dropped (.store b :: us)) := by
          simp [live_storeByte hs hroom]
    | drop k =>
      obtain ⟨hk, ha⟩ := ha
      have hlen : k ≤ (live s).length := by rwa [live_length]
      calc live (us.foldl RingUse.apply (dropOldest k s))
        _ = (live (dropOldest k s) ++ RingUse.stored us).drop (RingUse.dropped us) := ih (hs.dropOldest hk) ha
        _ = (live s ++ RingUse.stored (.drop k :: us)).drop (RingUse.dropped (.drop k :: us)) := by
          rw [live_dropOldest, ← List.drop_append_of_le_length hlen, List.drop_drop, dropped_drop, stored_drop]

/-- Settles O34: the history from an empty ring. -/
theorem ringHistoryIsFirstInFirstOut : Obligations.RingHistoryIsFirstInFirstOut := by
  intro us s hs hempty ha
  rw [live_history us hs ha, live_eq_nil.2 hempty, List.nil_append]

end Sys2Proof.Machine
end

/-! SUPPORT. The byte-list parser of Safety.lean by the shape of its input (41_framer_parser.md R90 to R97): too few
bytes, noise, a false start, a header, a whole frame, and a frame cut short. -/
section
namespace Sys2Proof.Machine

/-- A parse's result after `k` more bytes dropped and `e` more false starts rejected in front of it. -/
def WireParse.after (k e : Nat) (r : WireParse) : WireParse :=
  { r with dropped := k + r.dropped, falseStarts := r.falseStarts + e }

/-! ## The scan over noise -/

theorem scanLength_noise {noise : List Byte} (rest : List Byte) {w : Nat} (hn : isNoise noise)
    (hw : noise.length < w) : scanLength w (noise ++ 0xAA :: rest) = noise.length := by
  induction noise generalizing w with
  | nil =>
    obtain ⟨w, rfl⟩ := Nat.exists_eq_add_one_of_ne_zero (Nat.ne_of_gt hw)
    rw [List.nil_append, scanLength_cons, if_pos rfl, List.length_nil]
  | cons b noise ih =>
    obtain ⟨w, rfl⟩ := Nat.exists_eq_add_one_of_ne_zero (Nat.ne_of_gt (Nat.zero_lt_of_lt hw))
    obtain ⟨hb, hn⟩ : b ≠ 0xAA ∧ isNoise noise := by simpa [isNoise] using hn
    rw [List.cons_append, scanLength_cons, if_neg hb, ih hn (Nat.lt_of_succ_lt_succ hw), List.length_cons]

theorem scanLength_all_noise {w : Nat} {bs : List Byte} (hn : isNoise (bs.take w)) :
    scanLength w bs = min w bs.length := by
  have hall : (bs.take w).takeWhile (fun b => b != 0xAA) = bs.take w :=
    List.takeWhile_eq_self_iff.2 (by simpa [isNoise] using hn)
  rw [scanLength, hall, List.length_take]

/-! ## The parser's cases -/

/-- Fuel above the list's length is never used up: each retry of step 4 drops a byte (R98). -/
theorem wireParse_fuel {W n m : Nat} {bs : List Byte} (hn : bs.length < n) (hm : bs.length < m) :
    wireParse W n bs = wireParse W m bs := by
  induction n generalizing m bs with
  | zero => omega
  | succ n ih =>
    obtain ⟨m, rfl⟩ := Nat.exists_eq_add_one_of_ne_zero (Nat.ne_of_gt (Nat.zero_lt_of_lt hm))
    by_cases h5 : bs.length < 5
    · rw [wireParse, wireParse, if_pos h5, if_pos h5]
    · have hretry (k : Nat) : wireParse W n ((bs.drop k).drop 1) = wireParse W m ((bs.drop k).drop 1) :=
        ih (by simp; omega) (by simp; omega)
      simp only [wireParse, hretry]

theorem wireParse_eq_parseBytes {W n : Nat} {bs : List Byte} (hn : bs.length < n) :
    wireParse W n bs = parseBytes W bs := wireParse_fuel hn (Nat.lt_succ_self _)

/-- R90. -/
theorem parseBytes_short (W : Nat) {bs : List Byte} (h : bs.length < 5) : parseBytes W bs = ⟨.npShort, 0, 0, none⟩ := by
  rw [parseBytes, wireParse, if_pos h]

/-- R91: no start byte in the window or in the whole ring. -/
theorem parseBytes_noStart {W : Nat} {bs : List Byte} (h5 : 5 ≤ bs.length) (hn : isNoise (bs.take W)) :
    parseBytes W bs = ⟨.npNoStart, min W bs.length, 0, none⟩ := by
  have hscan := scanLength_all_noise hn
  rw [scanLength] at hscan
  simp only [parseBytes, wireParse, hscan, if_neg (Nat.not_lt.2 h5), if_pos]

section
variable {W : Nat} {noise : List Byte} (hn : isNoise noise) (hW : noise.length < W)
include hn hW

/-- With a start byte behind noise: steps 3 to 8 on the bytes from it on (R91 to R97). -/
theorem parseBytes_start {rest : List Byte} (h5 : 5 ≤ (noise ++ 0xAA :: rest).length) :
    parseBytes W (noise ++ 0xAA :: rest) =
      let bytes := 0xAA :: rest
      let L := (bytes.getD 2 0).toNat + 256 * (bytes.getD 3 0).toNat
      if bytes.length < 5 then ⟨.npShort, noise.length, 0, none⟩
      else if L > 512 then (parseBytes W rest).after (noise.length + 1) 1
      else wireFrameAt noise.length L bytes := by
  have hscan := scanLength_noise rest hn hW
  rw [scanLength] at hscan
  have hmin : noise.length ≠ min W (noise ++ 0xAA :: rest).length := by simp; omega
  have hretry : wireParse W (noise ++ 0xAA :: rest).length rest = parseBytes W rest :=
    wireParse_eq_parseBytes (by simp; omega)
  show wireParse W ((noise ++ 0xAA :: rest).length + 1) (noise ++ 0xAA :: rest) = _
  simp only [wireParse, hscan, if_neg (Nat.not_lt.2 h5), if_neg hmin, List.drop_left, List.drop_one, List.tail_cons,
    hretry]
  rfl

/-- R91: noise before a start byte is dropped, and the parse is that of the bytes from the start byte on. -/
theorem parseBytes_noise {rest : List Byte} (h5 : 5 ≤ (noise ++ 0xAA :: rest).length) :
    parseBytes W (noise ++ 0xAA :: rest) = (parseBytes W (0xAA :: rest)).after noise.length 0 := by
  rw [parseBytes_start hn hW h5]
  by_cases hs : (0xAA :: rest : List Byte).length < 5
  · rw [parseBytes_short W hs]
    exact if_pos hs
  · rw [← List.nil_append (0xAA :: rest), parseBytes_start (noise := []) rfl (Nat.zero_lt_of_lt hW) (by simpa using hs)]
    simp only [List.nil_append, if_neg hs, List.length_nil]
    split
    · simp only [WireParse.after, Nat.zero_add, Nat.add_assoc, Nat.add_zero]
    · rw [wireFrameAt_dropped]
      rfl

variable {code lo hi seq : Byte} {rest : List Byte}

/-- R94 to R97: a whole header that declares an allowed length. -/
theorem parseBytes_header (hL : lo.toNat + 256 * hi.toNat ≤ 512) :
    parseBytes W (noise ++ 0xAA :: code :: lo :: hi :: seq :: rest) =
      wireFrameAt noise.length (lo.toNat + 256 * hi.toNat) (0xAA :: code :: lo :: hi :: seq :: rest) := by
  rw [parseBytes_start hn hW (by simp; omega)]
  exact (if_neg (by simp)).trans (if_neg (Nat.not_lt.2 hL))

omit hn hW in
/-- R93: a header that declares too great a length is a false start, rejected by one byte. -/
theorem parseBytes_falseStart (hW : 1 ≤ W) (hL : 512 < lo.toNat + 256 * hi.toNat) :
    parseBytes W (0xAA :: code :: lo :: hi :: seq :: rest) =
      (parseBytes W (code :: lo :: hi :: seq :: rest)).after 1 1 :=
  (parseBytes_start (noise := []) rfl hW (by simp)).trans ((if_neg (by simp)).trans (if_pos hL))

/-- R94. -/
theorem parseBytes_incomplete (hL : lo.toNat + 256 * hi.toNat ≤ 512)
    (hlen : rest.length + 5 < 7 + (lo.toNat + 256 * hi.toNat)) :
    parseBytes W (noise ++ 0xAA :: code :: lo :: hi :: seq :: rest) = ⟨.npIncomplete, noise.length, 0, none⟩ := by
  rw [parseBytes_header hn hW hL]
  exact if_pos (by simpa using hlen)

/-- R95 to R97: a wholly buffered frame is judged by its checksum, then by its end byte. -/
theorem parseBytes_wholeFrame {payload : List Byte} {ck last : Byte}
    (hlen : payload.length = lo.toNat + 256 * hi.toNat) (hL : payload.length ≤ 512) :
    parseBytes W (noise ++ ([0xAA, code, lo, hi, seq] ++ payload ++ [ck, last]) ++ rest) =
      if xorAll ([code, lo, hi, seq] ++ payload) ≠ ck then ⟨.npBadCsum, noise.length + 1, 0, none⟩
      else if last ≠ 0x55 then ⟨.npBadEnd, noise.length + 1, 0, none⟩
      else ⟨.packet, noise.length + (7 + payload.length), 0,
        some ⟨code, seq, BitVec.ofNat 16 payload.length, payload⟩⟩ := by
  have hcovered : (payload ++ ck :: last :: rest).take payload.length = payload := List.take_left
  simp only [List.append_assoc, List.cons_append, List.nil_append]
  rw [parseBytes_header hn hW (hlen ▸ hL), ← hlen]
  simp [wireFrameAt, hcovered, Nat.add_comm _ payload.length]

/-- R97: a whole frame is the packet it was made of. -/
theorem parseBytes_wireFrame (payload : List Byte) (hL : payload.length ≤ 512) :
    parseBytes W (noise ++ wireFrame code seq payload ++ rest) =
      ⟨.packet, noise.length + (7 + payload.length), 0,
        some ⟨code, seq, BitVec.ofNat 16 payload.length, payload⟩⟩ := by
  have hlength : payload.length =
      (BitVec.ofNat 8 (payload.length % 256)).toNat + 256 * (BitVec.ofNat 8 (payload.length / 256)).toNat := by
    simp only [BitVec.toNat_ofNat]
    omega
  exact (parseBytes_wholeFrame hn hW hlength hL).trans ((if_neg (not_not.2 rfl)).trans (if_neg (not_not.2 rfl)))

end

/-- A frame cut short gives no packet and loses nothing (R90, R94). -/
theorem parseBytes_frame_prefix {W : Nat} (hW : 1 ≤ W) {code seq : Byte} {payload first second : List Byte}
    (hL : payload.length ≤ 512) (hframe : first ++ second = wireFrame code seq payload) (hsecond : second ≠ []) :
    parseBytes W first = ⟨if first.length < 5 then .npShort else .npIncomplete, 0, 0, none⟩ := by
  have hlength : first.length + second.length = 7 + payload.length := by
    rw [← List.length_append, hframe, wireFrame_length]
  have hpos := List.length_pos_iff.2 hsecond
  by_cases h5 : first.length < 5
  · rw [parseBytes_short W h5, if_pos h5]
  · have hheader : first.take 5 =
        [0xAA, code, BitVec.ofNat 8 (payload.length % 256), BitVec.ofNat 8 (payload.length / 256), seq] := by
      rw [← List.take_append_of_le_length (l₂ := second) (by omega), hframe]
      rfl
    rw [if_neg h5, ← List.take_append_drop 5 first, hheader]
    refine parseBytes_incomplete (noise := []) (rest := first.drop 5) rfl hW ?_ ?_ <;>
      simp only [BitVec.toNat_ofNat, List.length_drop] <;> omega

/-! ## What a parse gives -/

/-- A parse that ends with a packet gives one of at most 512 payload bytes and drops its whole frame, and one that ends
otherwise gives none. -/
def WireParse.Sound (r : WireParse) : Prop :=
  match r.packet with
  | some p => r.outcome = .packet ∧ p.len.toNat = p.payload.length ∧ p.payload.length ≤ 512 ∧
      7 + p.payload.length ≤ r.dropped
  | none => r.outcome ≠ .packet

theorem WireParse.Sound.of_some {r : WireParse} (h : r.Sound) {p : Packet} (hp : r.packet = some p) :
    r.outcome = .packet ∧ p.len.toNat = p.payload.length ∧ p.payload.length ≤ 512 ∧
      7 + p.payload.length ≤ r.dropped := by
  rwa [WireParse.Sound, hp] at h

theorem WireParse.Sound.of_none {r : WireParse} (h : r.Sound) (hp : r.packet = none) : r.outcome ≠ .packet := by
  rwa [WireParse.Sound, hp] at h

theorem WireParse.Sound.after {r : WireParse} (h : r.Sound) (k e : Nat) : (r.after k e).Sound := by
  obtain ⟨o, d, f, _ | p⟩ := r
  · exact h
  · obtain ⟨ho, hlen, hL, hd⟩ := h
    exact ⟨ho, hlen, hL, Nat.le_trans hd (Nat.le_add_left _ _)⟩

theorem wireFrameAt_sound {k L : Nat} (hL : L ≤ 512) (bs : List Byte) : (wireFrameAt k L bs).Sound := by
  by_cases hlen : bs.length < 7 + L
  · rw [wireFrameAt, if_pos hlen]
    exact nofun
  · have hpayload : ((bs.drop 5).take L).length = L := by simp; omega
    have hL16 : (BitVec.ofNat 16 L).toNat = L := by rw [BitVec.toNat_ofNat]; omega
    rw [wireFrameAt, if_neg hlen]
    split
    · exact nofun
    · split
      · exact nofun
      · exact ⟨rfl, hL16.trans hpayload.symm, hpayload.trans_le hL, by rw [hpayload]; exact Nat.le_add_left _ _⟩

theorem wireParse_sound (W n : Nat) (bs : List Byte) : (wireParse W n bs).Sound := by
  induction n generalizing bs with
  | zero => exact nofun
  | succ n ih =>
    simp only [wireParse]
    split
    · exact nofun
    · split
      · exact nofun
      · split
        · exact nofun
        · split
          · exact (ih _).after _ _
          · exact wireFrameAt_sound (by omega) _

theorem parseBytes_sound (W : Nat) (bs : List Byte) : (parseBytes W bs).Sound := wireParse_sound W _ bs

end Sys2Proof.Machine
end

/-! SUPPORT. The PARSE command by the shape of the live bytes (41_framer_parser.md R88 to R98): its closed form, read on
each case of the byte-list parser. -/
section
namespace Sys2Proof.Machine

/-! ## The state a PARSE answers -/

/-- What PARSE answers when the byte-list parser gives `r` on the live bytes (R89). -/
def parseAnswer (r : WireParse) (s : State) : State :=
  finish r.outcome.cause (BitVec.ofNat 32 r.dropped) (parsedState r s)

theorem exec_parse_of {s : State} {r : WireParse} (h : RingInv s) (hr : parseBytes s.cfg.scanWindow (live s) = r) :
    exec .parse s = .next (parseAnswer r s) :=
  hr ▸ exec_parse h

theorem parseBytes_dropped_le {s : State} (h : RingInv s) :
    (parseBytes s.cfg.scanWindow (live s)).dropped ≤ s.fill := (execParse_eq h).1

@[simp] theorem live_parseAnswer (r : WireParse) (s : State) : live (parseAnswer r s) = (live s).drop r.dropped :=
  (live_congr rfl rfl rfl rfl rfl).trans (live_dropOldest s r.dropped)

theorem parseAnswer_ringInv {s : State} (h : RingInv s) :
    RingInv (parseAnswer (parseBytes s.cfg.scanWindow (live s)) s) :=
  (h.dropOldest (parseBytes_dropped_le h)).congr rfl rfl rfl rfl rfl

/-- R32: what a parse counts. -/
theorem parseAnswer_counts (r : WireParse) (s : State) :
    (parseAnswer r s).errCount = s.errCount +
      BitVec.ofNat 32 (r.falseStarts + if r.outcome = .npBadCsum ∨ r.outcome = .npBadEnd then 1 else 0) ∧
    (parseAnswer r s).csumErrCount = s.csumErrCount + (if r.outcome = .npBadCsum then 1 else 0) ∧
    (parseAnswer r s).rxCount = s.rxCount + (if r.outcome = .packet then 1 else 0) := ⟨rfl, rfl, rfl⟩

/-- R90, R91, R94: too few bytes, noise and an incomplete frame are counted nowhere. -/
theorem parseAnswer_keepsReceiveCounts {r : WireParse} (s : State) (hf : r.falseStarts = 0)
    (ho : r.outcome = .npShort ∨ r.outcome = .npNoStart ∨ r.outcome = .npIncomplete) :
    KeepsReceiveCounts s (parseAnswer r s) := by
  obtain ⟨herr, hcsum, hrx⟩ := parseAnswer_counts r s
  rw [KeepsReceiveCounts, herr, hcsum, hrx, hf]
  rcases ho with ho | ho | ho <;> simp [ho]

theorem parseAnswer_keepsPacket {r : WireParse} (h : r.packet = none) (s : State) :
    KeepsPacket s (parseAnswer r s) := by
  obtain ⟨o, d, f, _ | p⟩ := r
  · exact ⟨rfl, rfl, rfl, fun _ => rfl⟩
  · cases h

section
variable {r : WireParse} {p : Packet} (h : r.packet = some p) (s : State)
include h

/-- PKT_PAYLOAD after a delivery: the packet's bytes, and above them what was there (R97). -/
theorem pktByte_parseAnswer (i : Nat) : pktByte (parseAnswer r s) i = p.payload.getD i (pktByte s i) := by
  have hstore : (parseAnswer r s).pktPayload = Memory.storeAll s.pktPayload 0 p.payload := by
    simp [parseAnswer, parsedState, h]
  rw [pktByte, hstore, Memory.cellAt_storeAll, List.getD_eq_getElem?_getD]
  by_cases hi : i < p.payload.length
  · simp [hi]
  · rw [if_neg (by omega), List.getElem?_eq_none (by omega)]
    rfl

theorem pktByte_parseAnswer_above {i : Nat} (hi : p.payload.length ≤ i) :
    pktByte (parseAnswer r s) i = pktByte s i := by
  rw [pktByte_parseAnswer h, List.getD_eq_getElem?_getD, List.getElem?_eq_none hi, Option.getD_none]

/-- The PKT registers after a delivery hold the packet (R97). -/
theorem readPacket_parseAnswer (hlen : p.len.toNat = p.payload.length) : readPacket (parseAnswer r s) = p := by
  have hpayload : pktBytes (parseAnswer r s) p.payload.length = p.payload := by
    refine List.ext_getElem (by simp [pktBytes]) fun i _ hi => ?_
    simp [pktBytes, pktByte_parseAnswer h, hi]
  have hfields : (parseAnswer r s).pktCode = p.code ∧ (parseAnswer r s).pktSeq = p.seq ∧
      (parseAnswer r s).pktLen = p.len := by simp [parseAnswer, parsedState, h]
  obtain ⟨hcode, hseq, hlen'⟩ := hfields
  rw [readPacket, hcode, hseq, hlen', hlen, hpayload]

end

/-! ## Statements -/

/-- Settles O35: PARSE answers `parseAnswer` of what the byte-list parser gives. -/
theorem parseAgreesWithTheByteListParser : Obligations.ParseAgreesWithTheByteListParser := by
  intro s h r
  obtain ⟨herr, hcsum, hrx⟩ := parseAnswer_counts r s
  have hsound : r.Sound := parseBytes_sound _ _
  refine ⟨_, exec_parse_of h rfl, ⟨rfl, rfl⟩, parseBytes_dropped_le h, live_parseAnswer r s, rfl, herr, hcsum, hrx,
    fun hp => parseAnswer_keepsPacket hp s, fun p hp => ?_, fun _ => rfl, rfl, rfl, ⟨rfl, rfl⟩, rfl,
    ⟨rfl, rfl, rfl, fun _ => rfl⟩, ⟨rfl, rfl⟩, rfl, rfl, rfl, rfl⟩
  obtain ⟨-, hlen, -⟩ := hsound.of_some hp
  exact ⟨readPacket_parseAnswer hp s hlen, fun i hi => pktByte_parseAnswer_above hp s (hlen ▸ hi)⟩

/-- Settles O36: the first pass through PARSE_ONE's loop returns at step 1, in every state. -/
theorem parseOfFewerThanFiveBytesOnlyReports : Obligations.ParseOfFewerThanFiveBytesOnlyReports := by
  intro s h
  have hpass : parsePass s = .done .npShort 0 s := if_pos h
  show execParse s = _
  rw [execParse, parseOne, parseLoop, hpass]
  rfl

/-- Two PARSEs whose results over the live bytes differ by drops and false starts that the states account for end alike,
but for those drops in RESULT. -/
theorem exec_parse_after {s s' : State} {k : Nat} (e : Nat) (h : RingInv s) (h' : RingInv s')
    (hr : parseBytes s.cfg.scanWindow (live s) = (parseBytes s'.cfg.scanWindow (live s')).after k e)
    (hstate : ∀ r, parsedState r s' = parsedState (r.after k e) s) :
    ∃ t u, exec .parse s = .next t ∧ exec .parse s' = .next u ∧
      t = { u with result := u.result + BitVec.ofNat 32 k } := by
  refine ⟨_, _, exec_parse_of h hr, exec_parse_of h' rfl, ?_⟩
  rw [parseAnswer, parseAnswer, hstate]
  simp only [finish, WireParse.after, BitVec.ofNat_add, BitVec.add_comm]

theorem ringInv_scanWindow_pos {s : State} (h : RingInv s) : 1 ≤ s.cfg.scanWindow := by
  obtain ⟨⟨-, -, hwin, -⟩, -⟩ := h
  exact hwin

/-- Settles O37: noise before a start byte only adds to the bytes dropped, and noise throughout is dropped up to the
window's end. -/
theorem scanDropsExactlyTheNoise : Obligations.ScanDropsExactlyTheNoise := by
  intro s h h5
  refine ⟨fun noise rest hl hn hw => ?_, fun hwin hn => ?_, fun hfill hn => ?_⟩
  · have hfill : s.fill = (noise ++ 0xAA :: rest).length := by rw [← hl, live_length]
    have hdrop : live (dropOldest noise.length s) = 0xAA :: rest := by rw [live_dropOldest, hl, List.drop_left]
    have hparse : parseBytes s.cfg.scanWindow (live s) =
        (parseBytes s.cfg.scanWindow (0xAA :: rest)).after noise.length 0 := by
      rw [hl, parseBytes_noise hn hw (hfill ▸ h5)]
    refine ⟨exec_parse_after 0 h (h.dropOldest (by simp [hfill])) (by rw [hdrop]; exact hparse)
      fun r => parsedState_addDropped noise.length r s, fun hleft => ?_⟩
    rw [parseBytes_short (bs := 0xAA :: rest) _ (by simp at hfill ⊢; omega)] at hparse
    exact ⟨_, exec_parse_of h hparse, ⟨rfl, rfl⟩, by simp [WireParse.after, hl],
      parseAnswer_keepsReceiveCounts s rfl (.inl rfl)⟩
  · have hparse := parseBytes_noStart (by rwa [live_length]) hn
    rw [live_length, Nat.min_eq_left hwin] at hparse
    exact ⟨_, exec_parse_of h hparse, ⟨rfl, rfl⟩, by simp, parseAnswer_keepsReceiveCounts s rfl (.inr (.inl rfl))⟩
  · have hparse := parseBytes_noStart (W := s.cfg.scanWindow) (bs := live s) (by rwa [live_length])
      (by rwa [List.take_of_length_le (by rwa [live_length])])
    rw [live_length, Nat.min_eq_right hfill] at hparse
    exact ⟨_, exec_parse_of h hparse, ⟨rfl, rfl⟩, Nat.sub_self _,
      parseAnswer_keepsReceiveCounts s rfl (.inr (.inl rfl))⟩

/-- Settles O38: the false start only adds one drop and one error to the parse of the bytes behind it. -/
theorem oversizedLengthDropsTheFalseStartAndRetries : Obligations.OversizedLengthDropsTheFalseStartAndRetries := by
  intro s h
  have hwin := ringInv_scanWindow_pos h
  refine ⟨fun code lo hi seq rest hl hL => ?_, fun hl => ?_⟩
  · have hfill : 1 ≤ s.fill := by rw [← live_length s, hl]; simp
    have hdrop : live (dropOldest 1 (countErr s)) = code :: lo :: hi :: seq :: rest := by
      rw [live_dropOldest, show live (countErr s) = live s from rfl, hl]
      rfl
    refine exec_parse_after 1 (s' := dropOldest 1 (countErr s)) h (RingInv.dropOldest (s := countErr s) h hfill) ?_
      fun r => parsedState_falseStart r s
    rw [hdrop, hl]
    exact parseBytes_falseStart hwin hL
  · have hparse : parseBytes s.cfg.scanWindow (live s) = ⟨.npShort, 1, 1, none⟩ := by
      rw [hl, parseBytes_falseStart hwin (by decide), parseBytes_short _ (by decide)]
      rfl
    exact ⟨_, exec_parse_of h hparse, ⟨rfl, rfl⟩, by simp [hl], rfl, by simp [parseAnswer_counts]⟩

/-- Settles O39: fewer bytes than the capacity are always fewer than a frame that exceeds it. -/
theorem incompleteFrameStaysBuffered : Obligations.IncompleteFrameStaysBuffered := by
  intro s noise rest code lo hi seq h hl hn hw hL hlen
  obtain ⟨-, -, -, hcap, -⟩ := id h
  have hfill : s.fill = noise.length + (rest.length + 5) := by rw [← live_length, hl]; simp
  have hparse : parseBytes s.cfg.scanWindow (live s) = ⟨.npIncomplete, noise.length, 0, none⟩ := by
    rw [hl]
    exact parseBytes_incomplete hn hw hL (by omega)
  exact ⟨_, exec_parse_of h hparse, ⟨rfl, rfl⟩, by simp [hl],
    parseAnswer_keepsReceiveCounts s rfl (.inr (.inr rfl)), parseAnswer_keepsPacket rfl s⟩

/-- Settles O40: a whole frame is judged by its checksum, then by its end byte. -/
theorem corruptFrameCostsOneByte : Obligations.CorruptFrameCostsOneByte := by
  intro s noise payload rest code lo hi seq ck last h hl hn hw hlen hL
  have hparse := parseBytes_wholeFrame (code := code) (seq := seq) (rest := rest) (ck := ck) (last := last) hn
    hw hlen hL
  rw [← hl] at hparse
  have hdrop : (live s).drop (noise.length + 1) = [code, lo, hi, seq] ++ payload ++ [ck, last] ++ rest := by
    rw [hl, ← List.drop_drop]
    simp
  refine ⟨fun hck => ?_, fun hck hlast => ?_⟩
  · rw [if_pos hck.symm] at hparse
    exact ⟨_, exec_parse_of h hparse, ⟨rfl, rfl⟩, (live_parseAnswer _ s).trans hdrop, by simp [parseAnswer_counts],
      by simp [parseAnswer_counts], by simp [parseAnswer_counts], parseAnswer_keepsPacket rfl s⟩
  · rw [if_neg (not_not.2 hck.symm), if_pos hlast] at hparse
    exact ⟨_, exec_parse_of h hparse, ⟨rfl, rfl⟩, (live_parseAnswer _ s).trans hdrop, by simp [parseAnswer_counts],
      by simp [parseAnswer_counts], by simp [parseAnswer_counts], parseAnswer_keepsPacket rfl s⟩

/-- Settles O41: the bytes dropped are the noise and the frame, and the packet is the one the frame was made of. -/
theorem wholeFrameIsDeliveredAndOnlyItIsDropped : Obligations.WholeFrameIsDeliveredAndOnlyItIsDropped := by
  intro s noise payload rest code seq h hl hn hw hL
  have hparse := parseBytes_wireFrame (code := code) (seq := seq) (rest := rest) hn hw payload hL
  rw [← hl] at hparse
  have hL16 : (BitVec.ofNat 16 payload.length).toNat = payload.length := by rw [BitVec.toNat_ofNat]; omega
  have hdrop : (live s).drop (noise.length + (7 + payload.length)) = rest := by
    rw [hl, ← wireFrame_length code seq payload, ← List.length_append, List.drop_left]
  refine ⟨_, exec_parse_of h hparse, ⟨rfl, rfl⟩, (live_parseAnswer _ s).trans hdrop, rfl, by simp [parseAnswer_counts],
    by simp [parseAnswer_counts], readPacket_parseAnswer rfl s hL16, hL16,
    fun i hi => pktByte_parseAnswer_above rfl s hi⟩

end Sys2Proof.Machine
end

/-! SUPPORT. Frames that arrive on the RX port in chunks, with a PARSE after each (41_framer_parser.md R101). -/
section
namespace Sys2Proof.Machine

/-- An arrival with room appends its byte and leaves the configuration and the receive counters (R75, R76). -/
theorem rxPortArrival_room {s : State} (h : RingInv s) (hroom : s.fill < s.cfg.rxCapacity) (b : Byte) :
    RingInv (rxPortArrival b s) ∧ live (rxPortArrival b s) = live s ++ [b] ∧ (rxPortArrival b s).cfg = s.cfg ∧
      KeepsReceiveCounts s (rxPortArrival b s) := by
  obtain ⟨-, hcounts, -, -, -, hcfg, -⟩ := rxArrive_keepsBesideRing b s
  exact ⟨h.rxArrive b, live_rxArrive_room h hroom b, hcfg, hcounts⟩

/-- A run that begins with arrivals for which the ring has room goes on with all of them stored. -/
theorem runEvents_arrivals {s : State} (h : RingInv s) (bs : List Byte) (hroom : s.fill + bs.length ≤ s.cfg.rxCapacity)
    (es : List Event) :
    ∃ t, runEvents (bs.map .rx ++ es) s = runEvents es t ∧ RingInv t ∧ live t = live s ++ bs ∧ t.cfg = s.cfg ∧
      KeepsReceiveCounts s t := by
  induction bs generalizing s with
  | nil => exact ⟨s, rfl, h, (List.append_nil _).symm, rfl, rfl, rfl, rfl⟩
  | cons b bs ih =>
    rw [List.length_cons] at hroom
    obtain ⟨h₁, hlive, hcfg, hrx, herr, hcsum⟩ :=
      rxPortArrival_room (s := { s with inputs := bs.map .rx ++ es }) h (by show s.fill < s.cfg.rxCapacity; omega) b
    have hfill := congrArg List.length hlive
    rw [List.length_append, live_length, live_length, List.length_singleton] at hfill
    obtain ⟨t, hrun, ht, hlive', hcfg', hrx', herr', hcsum'⟩ := ih h₁ (by rw [hfill, hcfg]; simp only; omega)
    refine ⟨t, (runEvents_cons (.rx b _)).trans hrun, ht, ?_, hcfg'.trans hcfg, hrx'.trans hrx, herr'.trans herr,
      hcsum'.trans hcsum⟩
    rw [hlive', hlive, List.append_assoc]
    rfl

/-- A chunk that fits the ring, then a PARSE: the PARSE is that of the ring's bytes with the chunk behind them. -/
theorem runEvents_chunk {s : State} (h : RingInv s) {bs : List Byte} (hroom : s.fill + bs.length ≤ s.cfg.rxCapacity)
    {r : WireParse} (hr : parseBytes s.cfg.scanWindow (live s ++ bs) = r) :
    ∃ t, runEvents (bs.map .rx ++ [commandStep .parse]) s = .next (parseAnswer r t) ∧ RingInv (parseAnswer r t) ∧
      live t = live s ++ bs ∧ t.cfg = s.cfg ∧ KeepsReceiveCounts s t := by
  obtain ⟨t, hrun, ht, hlive, hcfg, hcounts⟩ := runEvents_arrivals h bs hroom [commandStep .parse]
  have ht' : RingInv (respond .ok { t with inputs := [] }) := ht
  have hr' : parseBytes t.cfg.scanWindow (live t) = r := by rw [hcfg, hlive, hr]
  have hx := exec_parse_of ht' hr'
  have hparse := runEvents_cons (.command (decode_encode .parse) hx)
  exact ⟨respond .ok { t with inputs := [] }, hrun.trans hparse, hr' ▸ parseAnswer_ringInv ht', hlive, hcfg, hcounts⟩

section
variable {s : State} {first second payload : List Byte} {code seq : Byte}

/-- A frame cut short that arrives in an empty ring is kept whole by the PARSE behind it (R90, R94). -/
theorem runEvents_partialFrame (h : RingInv s) (hempty : s.fill = 0) (hL : payload.length ≤ 512)
    (hcap : 7 + payload.length ≤ s.cfg.rxCapacity) (hframe : first ++ second = wireFrame code seq payload)
    (hsecond : second ≠ []) :
    ∃ t, runEvents (first.map .rx ++ [commandStep .parse]) s = .next t ∧ RingInv t ∧
      Ends (if first.length < 5 then .npShort else .npIncomplete) 0 t ∧ live t = first ∧ t.cfg = s.cfg ∧
      KeepsReceiveCounts s t := by
  have hlength := congrArg List.length hframe
  rw [List.length_append, wireFrame_length] at hlength
  have hnone : live s = [] := live_eq_nil.2 hempty
  have hcut := parseBytes_frame_prefix (ringInv_scanWindow_pos h) hL hframe hsecond
  rw [← List.nil_append first, ← hnone] at hcut
  obtain ⟨t, hrun, hring, hlive, hcfg, hcounts⟩ := runEvents_chunk h (by omega) hcut
  rw [hnone, List.nil_append] at hlive hcut hrun hring
  obtain ⟨hrx, herr, hcsum⟩ := hcounts
  obtain ⟨hrx', herr', hcsum'⟩ := parseAnswer_keepsReceiveCounts
    (r := ⟨if first.length < 5 then .npShort else .npIncomplete, 0, 0, none⟩) t rfl (by simp only; split <;> simp)
  exact ⟨_, hrun, hring, ⟨apply_ite ParseOutcome.cause .., rfl⟩, (live_parseAnswer _ t).trans hlive, hcfg,
    hrx'.trans hrx, herr'.trans herr, hcsum'.trans hcsum⟩

/-- The bytes that complete a frame in the ring give its packet (R97). -/
theorem runEvents_completedFrame (h : RingInv s) (hL : payload.length ≤ 512)
    (hcap : 7 + payload.length ≤ s.cfg.rxCapacity) (hframe : live s ++ second = wireFrame code seq payload) :
    ∃ u, runEvents (second.map .rx ++ [commandStep .parse]) s = .next u ∧ u.cause = .ok ∧
      readPacket u = ⟨code, seq, BitVec.ofNat 16 payload.length, payload⟩ := by
  have hlength := congrArg List.length hframe
  rw [List.length_append, wireFrame_length, live_length] at hlength
  have hL16 : (BitVec.ofNat 16 payload.length).toNat = payload.length := by rw [BitVec.toNat_ofNat]; omega
  have hwhole := parseBytes_wireFrame (code := code) (seq := seq) (noise := []) (rest := []) rfl
    (ringInv_scanWindow_pos h) payload hL
  rw [List.nil_append, List.append_nil, ← hframe] at hwhole
  obtain ⟨t, hrun, -⟩ := runEvents_chunk h (by omega) hwhole
  exact ⟨_, hrun, rfl, readPacket_parseAnswer rfl t hL16⟩

end

/-- Settles O42: the first PARSE keeps the part of the frame that has come, so the second finds the whole frame. -/
theorem partialDeliveryThenCompletion : Obligations.PartialDeliveryThenCompletion := by
  intro s first second payload code seq h hempty hframe _ hsecond hL hcap
  obtain ⟨t, hrun, hring, hends, hlive, hcfg, hcounts⟩ := runEvents_partialFrame h hempty hL hcap hframe hsecond
  obtain ⟨u, hrun', hcause, hpacket⟩ :=
    runEvents_completedFrame (s := t) (second := second) hring hL (by rwa [hcfg]) (by rwa [hlive])
  exact ⟨t, u, hrun, hends, hlive, hcounts, hrun', hcause, hpacket⟩

end Sys2Proof.Machine
end

/-! SUPPORT. The turns of a SERVICE (30_encoding.md R70, 41_framer_parser.md R99): a relation whose constructors are the
ways a turn can go, what SERVICE knows of the PKT registers in each phase, which packets PARSE has given it so far, and
how many more accesses it makes. -/
section
namespace Sys2Proof.Machine

/-! ## Ways a turn can go -/

/-- `Turned turn sv s sv' s'`: under `turn`, SERVICE `sv` on block `s` goes on as `sv'` on `s'`. -/
inductive Turned : Turn → Service → State → Service → State → Prop
  | arrival (b : Byte) (sv : Service) (s : State) : Turned (.rx b) sv s sv (rxPortArrival b s)
  | parse {sv : Service} (h : sv.phase = .parse) (s : State) :
      Turned .host sv s { sv with phase := .status, parses := sv.parses + 1 }
        (parseAnswer (parseBytes s.cfg.scanWindow (live s)) (respond .ok s))
  | status {sv : Service} (h : sv.phase = .status) (s : State) :
      Turned .host sv s { sv with phase := if s.cause = .ok then .header else .done }
        (respond (.data (statusWord s)) s)
  | header {sv : Service} (h : sv.phase = .header) (s : State) :
      Turned .host sv s (sv.collect s.pktCode s.pktSeq s.pktLen []) (respond (.data (pktHdrWord s)) s)
  | payload {sv : Service} {code seq : Byte} {len : Half} {got : List Byte} (h : sv.phase = .payload code seq len got)
      (hgot : got.length < 512) (s : State) :
      Turned .host sv s (sv.collect code seq len (got ++ [pktByte s got.length]))
        (respond (.data ((pktByte s got.length).setWidth 32)) s)
  | done {sv : Service} (h : sv.phase = .done) (s : State) : Turned .host sv s sv s

/-- An 8-bit read of PKT_PAYLOAD's window is legal and reads one byte of it (R36, R41, R45). -/
theorem memRead_pktByte (s : State) {i : Nat} (h : i < 512) :
    legalAccess (BitVec.ofNat 12 (0x400 + i)) .byte = true ∧
      memRead (BitVec.ofNat 12 (0x400 + i)) .byte s = (pktByte s i).setWidth 32 := by
  have ha : (BitVec.ofNat 12 (0x400 + i)).toNat = 0x400 + i := by rw [BitVec.toNat_ofNat]; omega
  refine ⟨legalAccess_iff.2 (.inr ⟨by omega, by omega, Nat.mod_one _⟩), ?_⟩
  rw [memRead, regionOf_pktPayload.2 (by omega), ha]
  simp [AccessWidth.bytes, littleEndian]

section
variable {turn : Turn} {sv sv' : Service} {s s' : State}

/-- The turns of the relation are turns of SERVICE. -/
theorem Turned.serviceTurn_eq (h : Turned turn sv s sv' s') (hs : RingInv s) :
    serviceTurn turn sv s = .next (sv', s') := by
  cases h with
  | arrival b => exact serviceTurn_rx b sv s
  | parse h => exact serviceTurn_parse h (exec_parse_of (s := respond .ok s) hs rfl) rfl
  | status h =>
    obtain ⟨-, hcause, -⟩ := statusWord_fields s
    rw [serviceTurn_status h, hcause]
    simp only [code_eq_zero]
  | header h =>
    obtain ⟨hcode, hseq, hlen⟩ := extract_header s.pktLen s.pktSeq s.pktCode
    rw [serviceTurn_header h, pktHdrWord, hcode, hseq, hlen]
  | @payload _ code seq len got h hgot =>
    obtain ⟨hlegal, hread⟩ := memRead_pktByte s hgot
    have haccess : sv.access = some (.read (BitVec.ofNat 12 (0x400 + got.length)) .byte) := by rw [Service.access, h]
    rw [serviceTurn_read haccess hlegal, hread]
    simp [Service.observe, h]
  | done h => exact serviceTurn_done h s

end

/-! ## What SERVICE knows -/

/-- The header's fields and payload bytes read so far are those of packet `p`. -/
structure ReadSoFar (p : Packet) (code seq : Byte) (len : Half) (got : List Byte) : Prop where
  code_eq : code = p.code
  seq_eq : seq = p.seq
  len_eq : len = p.len
  got_prefix : got <+: p.payload

/-- What SERVICE may rely on in each phase: how many PARSEs it has issued, that a packet to read is of legal length, and
that what it has read is the packet in the PKT registers. -/
def Service.Knows (sv : Service) (s : State) : Prop :=
  sv.parses = sv.out.length + (if sv.phase = .parse then 0 else 1) ∧
    match sv.phase with
    | .parse => ∀ p, sv.out.getLast? = some p → p = readPacket s
    | .status => s.cause = .ok → (readPacket s).len.toNat ≤ 512
    | .header => (readPacket s).len.toNat ≤ 512
    | .payload code seq len got => (readPacket s).len.toNat ≤ 512 ∧ got.length < (readPacket s).len.toNat ∧
        ReadSoFar (readPacket s) code seq len got
    | .done => s.cause ≠ .ok

/-- The packet that PARSE has delivered and SERVICE not yet appended. -/
def Service.pending (sv : Service) (s : State) : List Packet :=
  match sv.phase with
  | .parse => []
  | .status => if s.cause = .ok then [readPacket s] else []
  | .header => [readPacket s]
  | .payload _ _ _ _ => [readPacket s]
  | .done => []

theorem Service.pending_length_le (sv : Service) (s : State) : (sv.pending s).length ≤ 1 := by
  rw [Service.pending]
  cases sv.phase with
  | status => simp only; split <;> simp
  | _ => simp

/-- The packets that PARSE has delivered to SERVICE. -/
def Service.received (sv : Service) (s : State) : List Packet := sv.out ++ sv.pending s

/-- The last PARSE gave no packet. -/
def Service.Stopped (sv : Service) (s : State) : Prop := sv.phase = .done ∨ (sv.phase = .status ∧ s.cause ≠ .ok)

/-- A bound on the accesses that SERVICE makes from here to its exit if no byte arrives. -/
def Service.budget (sv : Service) (s : State) : Nat :=
  match sv.phase with
  | .parse => s.fill + 2
  | .status => if s.cause = .ok then (readPacket s).len.toNat + s.fill + 4 else 1
  | .header => (readPacket s).len.toNat + s.fill + 3
  | .payload _ _ _ got => (readPacket s).len.toNat - got.length + s.fill + 2
  | .done => 0

@[simp] theorem readPacket_payload_length (s : State) : (readPacket s).payload.length = (readPacket s).len.toNat := by
  simp [readPacket, pktBytes]

theorem readPacket_congr {s t : State} (h : KeepsPacket s t) : readPacket t = readPacket s := by
  obtain ⟨hcode, hseq, hlen, hbytes⟩ := h
  have hpayload (n : Nat) : pktBytes t n = pktBytes s n := List.map_congr_left fun i _ => hbytes i
  rw [readPacket, readPacket, hcode, hseq, hlen, hpayload]

/-- Arrivals leave what SERVICE reads (R49, R76). -/
theorem rxPortArrival_read (b : Byte) (s : State) :
    readPacket (rxPortArrival b s) = readPacket s ∧ (rxPortArrival b s).cause = s.cause := by
  obtain ⟨-, -, hpacket, -⟩ := rxArrive_keepsBesideRing b s
  exact ⟨readPacket_congr hpacket, (rxArrive_keepsOutcome b s).2⟩

section
variable {sv : Service} {s : State} {code seq : Byte} {len : Half} {got : List Byte}

/-- One more byte read. -/
theorem ReadSoFar.append (h : ReadSoFar (readPacket s) code seq len got)
    (hgot : got.length < (readPacket s).len.toNat) :
    ReadSoFar (readPacket s) code seq len (got ++ [pktByte s got.length]) := by
  obtain ⟨hcode, hseq, hlen, hprefix⟩ := h
  have happend := List.concat_get_prefix hprefix (by rwa [readPacket_payload_length])
  have hbyte : (readPacket s).payload.get ⟨got.length, by rwa [readPacket_payload_length]⟩ = pktByte s got.length := by
    simp [readPacket, pktBytes]
  exact ⟨hcode, hseq, hlen, hbyte ▸ happend⟩

/-- SERVICE goes on reading the payload, or appends the packet in the PKT registers. -/
theorem ReadSoFar.collect_cases (h : ReadSoFar (readPacket s) code seq len got) (sv : Service) :
    (got.length < (readPacket s).len.toNat ∧
      sv.collect code seq len got = { sv with phase := .payload code seq len got }) ∨
    sv.collect code seq len got = { sv with phase := .parse, out := sv.out ++ [readPacket s] } := by
  obtain ⟨rfl, rfl, rfl, hprefix⟩ := h
  by_cases hmore : got.length < (readPacket s).len.toNat
  · exact .inl ⟨hmore, if_pos hmore⟩
  · have hgot : got = (readPacket s).payload :=
      hprefix.eq_of_length_le (by rw [readPacket_payload_length]; exact Nat.not_lt.1 hmore)
    exact .inr ((if_neg hmore).trans (by rw [hgot]))

theorem ReadSoFar.collect_knows (h : ReadSoFar (readPacket s) code seq len got)
    (hparses : sv.parses = sv.out.length + 1) (hlen : (readPacket s).len.toNat ≤ 512) :
    (sv.collect code seq len got).Knows s := by
  rcases h.collect_cases sv with ⟨hmore, e⟩ | e <;> rw [e]
  · exact ⟨hparses, hlen, hmore, h⟩
  · exact ⟨by simp [hparses], fun p hp => by simpa using hp.symm⟩

/-- While SERVICE reads a packet, what PARSE has delivered stays. -/
theorem ReadSoFar.collect_received (h : ReadSoFar (readPacket s) code seq len got) :
    (sv.collect code seq len got).received s = sv.out ++ [readPacket s] ∧
      ¬ (sv.collect code seq len got).Stopped s := by
  rcases h.collect_cases sv with ⟨-, e⟩ | e <;> rw [e] <;> simp [Service.received, Service.pending, Service.Stopped]

theorem ReadSoFar.collect_budget (h : ReadSoFar (readPacket s) code seq len got) :
    (sv.collect code seq len got).budget s ≤ (readPacket s).len.toNat - got.length + s.fill + 2 := by
  rcases h.collect_cases sv with ⟨-, e⟩ | e <;> rw [e] <;> simp only [Service.budget]
  · exact Nat.le_refl _
  · omega

/-- PKT_HDR read, no payload byte yet. -/
theorem readSoFar_header (s : State) : ReadSoFar (readPacket s) s.pktCode s.pktSeq s.pktLen [] :=
  ⟨rfl, rfl, rfl, List.nil_prefix⟩

end

/-! ## What PARSE delivers -/

theorem ParseOutcome.cause_eq_ok {o : ParseOutcome} : o.cause = .ok ↔ o = .packet := by cases o <;> decide

/-- A PARSE gives no packet, with a CAUSE that says so, or gives one in the PKT registers and drops its frame. -/
theorem parseAnswer_cases {r : WireParse} (hr : r.Sound) (s : State) :
    (r.packet = none ∧ (parseAnswer r s).cause ≠ .ok) ∨
    (r.packet = some (readPacket (parseAnswer r s)) ∧ (parseAnswer r s).cause = .ok ∧
      (readPacket (parseAnswer r s)).len.toNat ≤ 512 ∧
      7 + (readPacket (parseAnswer r s)).len.toNat ≤ r.dropped) := by
  cases hp : r.packet with
  | none => exact .inl ⟨rfl, fun hc => hr.of_none hp (ParseOutcome.cause_eq_ok.1 hc)⟩
  | some p =>
    obtain ⟨ho, hlen, hL, hd⟩ := hr.of_some hp
    rw [readPacket_parseAnswer hp s hlen, hlen]
    exact .inr ⟨rfl, ParseOutcome.cause_eq_ok.2 ho, hL, hd⟩

/-! ## What a turn does -/

section
variable {turn : Turn} {sv sv' : Service} {s s' : State}

theorem exists_turned (turn : Turn) (h : sv.Knows s) : ∃ sv' s', Turned turn sv s sv' s' := by
  cases turn with
  | rx b => exact ⟨_, _, .arrival b sv s⟩
  | host =>
    cases hphase : sv.phase with
    | parse => exact ⟨_, _, .parse hphase s⟩
    | status => exact ⟨_, _, .status hphase s⟩
    | header => exact ⟨_, _, .header hphase s⟩
    | payload code seq len got =>
      obtain ⟨-, h⟩ := h
      rw [hphase] at h
      obtain ⟨hlen, hgot, -⟩ := h
      exact ⟨_, _, .payload hphase (Nat.lt_of_lt_of_le hgot hlen) s⟩
    | done => exact ⟨_, _, .done hphase s⟩

theorem Turned.ringInv (h : Turned turn sv s sv' s') (hs : RingInv s) : RingInv s' := by
  cases h with
  | arrival b => exact hs.rxArrive b
  | parse => exact parseAnswer_ringInv (s := respond .ok s) hs
  | _ => exact hs

/-- Each turn keeps what SERVICE relies on. -/
theorem Turned.knows (h : Turned turn sv s sv' s') (hk : sv.Knows s) : sv'.Knows s' := by
  obtain ⟨hparses, hphase⟩ := id hk
  cases h with
  | arrival b =>
    obtain ⟨hread, hcause⟩ := rxPortArrival_read b s
    simpa only [Service.Knows, hread, hcause] using hk
  | parse h =>
    rw [h, if_pos rfl] at hparses
    refine ⟨congrArg (· + 1) hparses, fun hc => ?_⟩
    rcases parseAnswer_cases (parseBytes_sound s.cfg.scanWindow (live s)) (respond .ok s) with
      ⟨-, hno⟩ | ⟨-, -, hlen, -⟩
    · exact absurd hc hno
    · exact hlen
  | status h =>
    rw [h] at hparses hphase
    by_cases hc : s.cause = .ok
    · rw [if_pos hc]
      exact ⟨hparses, hphase hc⟩
    · rw [if_neg hc]
      exact ⟨hparses, hc⟩
  | header h =>
    rw [h] at hparses hphase
    exact (readSoFar_header s).collect_knows hparses hphase
  | payload h =>
    rw [h] at hparses hphase
    obtain ⟨hlen, hgot, hread⟩ := hphase
    exact (hread.append hgot).collect_knows hparses hlen
  | done => exact hk

/-- Between packets SERVICE has appended all that it has been given. -/
theorem Service.received_eq_out (h : sv.phase = .parse ∨ sv.phase = .done) (s : State) : sv.received s = sv.out := by
  rcases h with h | h <;> rw [Service.received, Service.pending, h] <;> exact List.append_nil _

/-- A host turn at PARSE gives SERVICE what the ring's bytes parse to, and stops it if that is nothing. -/
theorem Turned.of_parse (h : Turned .host sv s sv' s') (hp : sv.phase = .parse) {r : WireParse}
    (hr : parseBytes s.cfg.scanWindow (live s) = r) :
    sv'.received s' = sv.received s ++ r.packet.toList ∧ (sv'.Stopped s' ↔ r.packet = none) ∧
      live s' = (live s).drop r.dropped ∧ s'.fill = s.fill - r.dropped ∧ s'.cfg = s.cfg := by
  have hsound : r.Sound := hr ▸ parseBytes_sound _ _
  cases h with
  | parse =>
    rw [hr, Service.received_eq_out (.inl hp)]
    refine ⟨?_, ?_, live_parseAnswer r _, rfl, rfl⟩ <;>
      rcases parseAnswer_cases hsound (respond .ok s) with ⟨hnone, hc⟩ | ⟨hsome, hc, -⟩
    · simp [Service.received, Service.pending, hnone, hc]
    · simp [Service.received, Service.pending, hsome, hc]
    · simp [Service.Stopped, hnone, hc]
    · simp [Service.Stopped, hsome, hc]
  | status h => cases hp.symm.trans h
  | header h => cases hp.symm.trans h
  | payload h => cases hp.symm.trans h
  | done h => cases hp.symm.trans h

/-- The host's other turns leave the ring, and what SERVICE has been given. -/
theorem Turned.quiet (h : Turned .host sv s sv' s') (hk : sv.Knows s) (hp : sv.phase ≠ .parse) :
    sv'.received s' = sv.received s ∧ (sv'.Stopped s' → sv.Stopped s) ∧ live s' = live s ∧ s'.cfg = s.cfg := by
  obtain ⟨-, hphase⟩ := id hk
  cases h with
  | parse h => exact absurd h hp
  | status h =>
    refine ⟨?_, fun hst => ?_, rfl, rfl⟩
    · have hpending : sv.pending s = if s.cause = .ok then [readPacket s] else [] := by rw [Service.pending, h]
      rw [Service.received, Service.received, hpending]
      by_cases hc : s.cause = .ok
      · rw [if_pos hc, if_pos hc]
        rfl
      · rw [if_neg hc, if_neg hc]
        rfl
    · by_cases hc : s.cause = .ok
      · simp [Service.Stopped, hc] at hst
      · exact .inr ⟨h, hc⟩
  | header h =>
    obtain ⟨hrec, hgo⟩ := (readSoFar_header s).collect_received (sv := sv)
    exact ⟨hrec.trans (by rw [Service.received, Service.pending, h]), fun hst => absurd hst hgo, rfl, rfl⟩
  | payload h =>
    rw [h] at hphase
    obtain ⟨-, hgot, hread⟩ := hphase
    obtain ⟨hrec, hgo⟩ := (hread.append hgot).collect_received (sv := sv)
    exact ⟨hrec.trans (by rw [Service.received, Service.pending, h]), fun hst => absurd hst hgo, rfl, rfl⟩
  | done => exact ⟨rfl, id, rfl, rfl⟩

/-- Each turn of the host spends of the budget until SERVICE has exited. -/
theorem Turned.budget_le (h : Turned .host sv s sv' s') (hs : RingInv s) (hk : sv.Knows s) :
    sv'.budget s' ≤ sv.budget s - 1 := by
  obtain ⟨-, hphase⟩ := hk
  cases h with
  | parse h =>
    have hdrop := parseBytes_dropped_le hs
    simp only [Service.budget, h]
    rcases parseAnswer_cases (parseBytes_sound s.cfg.scanWindow (live s)) (respond .ok s) with
      ⟨-, hno⟩ | ⟨-, hc, -, hlen⟩
    · rw [if_neg hno]
      omega
    · rw [if_pos hc, show (parseAnswer _ (respond .ok s)).fill = s.fill - _ from rfl]
      omega
  | status h =>
    have hbudget : sv.budget s = if s.cause = .ok then (readPacket s).len.toNat + s.fill + 4 else 1 := by
      rw [Service.budget, h]
    by_cases hc : s.cause = .ok
    · rw [hbudget, if_pos hc, if_pos hc]
      exact Nat.le_refl _
    · rw [if_neg hc]
      exact Nat.zero_le _
  | header h =>
    have hle := (readSoFar_header s).collect_budget (sv := sv)
    simp only [Service.budget, h]
    exact hle
  | payload h =>
    rw [h] at hphase
    obtain ⟨-, hgot, hread⟩ := hphase
    have hle := (hread.append hgot).collect_budget (sv := sv)
    simp only [List.length_append, List.length_singleton] at hle
    refine Nat.le_trans hle ?_
    simp only [Service.budget, h]
    omega
  | done h => simp [Service.budget, h]

end

/-! ## Runs -/

theorem Turned.serviceRun_cons {turn : Turn} {sv sv' : Service} {s s' : State} (h : Turned turn sv s sv' s')
    (hs : RingInv s) (ts : List Turn) : serviceRun (turn :: ts) sv s = serviceRun ts sv' s' := by
  rw [serviceRun, h.serviceTurn_eq hs]

theorem start_knows (s : State) : Service.start.Knows s := ⟨rfl, nofun⟩

theorem Service.phase_of_budget_zero {sv : Service} {s : State} (h : sv.budget s = 0) : sv.phase = .done := by
  rw [Service.budget] at h
  cases hphase : sv.phase with
  | done => rfl
  | status => rw [hphase] at h; dsimp only at h; split at h <;> omega
  | _ => rw [hphase] at h; dsimp only at h; omega

/-- With no arrival, a host that has its budget of turns brings SERVICE to its exit, and what each of its turns keeps
holds there. -/
theorem serviceRun_host {P : Service → State → Prop}
    (hturn : ∀ {sv s sv' s'}, Turned .host sv s sv' s' → RingInv s → sv.Knows s → P sv s → P sv' s')
    (n : Nat) {sv : Service} {s : State} (hs : RingInv s) (hk : sv.Knows s) (hn : sv.budget s ≤ n) (hP : P sv s) :
    ∃ sv' t, serviceRun (List.replicate n .host) sv s = .next (sv', t) ∧ sv'.Knows t ∧ sv'.phase = .done ∧
      P sv' t := by
  induction n generalizing sv s with
  | zero => exact ⟨sv, s, rfl, hk, Service.phase_of_budget_zero (Nat.le_zero.1 hn), hP⟩
  | succ n ih =>
    obtain ⟨sv₁, s₁, h₁⟩ := exists_turned .host hk
    have hspent := h₁.budget_le hs hk
    obtain ⟨sv', t, hrun, h⟩ := ih (h₁.ringInv hs) (h₁.knows hk) (by omega) (hturn h₁ hs hk hP)
    exact ⟨sv', t, (h₁.serviceRun_cons hs _).trans hrun, h⟩

/-- The same from SERVICE's start. -/
theorem service_exits {P : Service → State → Prop}
    (hturn : ∀ {sv s sv' s'}, Turned .host sv s sv' s' → RingInv s → sv.Knows s → P sv s → P sv' s')
    {s : State} (hs : RingInv s) (hP : P Service.start s) :
    ∃ sv t, service s = .next (sv, t) ∧ sv.Knows t ∧ sv.phase = .done ∧ P sv t :=
  serviceRun_host hturn (s.fill + 2) hs (start_knows s) (Nat.le_refl _) hP

end Sys2Proof.Machine
end

/-! SUPPORT. Whole runs of SERVICE (41_framer_parser.md R99): their steps as bus accesses, their bound, and the order in
which they deliver frames. -/
section
namespace Sys2Proof.Machine

/-! ## The steps of a run -/

/-- The steps of SERVICE and of the producer beside it: arrivals, PARSE, and the reads of R99. -/
def Event.OfService (e : Event) : Prop :=
  e.isArrival = true ∨ e = commandStep .parse ∨ e = .read 0x008 .word ∨ e = .read 0x02C .word ∨
    ∃ i, i < 512 ∧ e = .read (BitVec.ofNat 12 (0x400 + i)) .byte

/-- No arrival looks at the steps still pending. -/
theorem rxPortArrival_inputs (b : Byte) (s : State) (es : List Event) :
    rxPortArrival b { s with inputs := es } = { rxPortArrival b s with inputs := es } := by
  by_cases hf : s.fill = s.cfg.rxCapacity <;> simp [rxPortArrival, rxArrive, pushPrim, hf] <;> rfl

section
variable {turn : Turn} {sv sv' : Service} {s s' : State}

/-- A step that goes alike whatever is pending is the first of a run. -/
theorem runEvents_first {e : Event} {t : State}
    (h : ∀ es, Performed e { s with inputs := es } { t with inputs := es }) (later : List Event) :
    runEvents ([e] ++ later) s = runEvents later t := by
  show runEvents (e :: later) s = _
  exact (runEvents_cons (h later)).trans rfl

/-- A turn is a step of the surroundings, or none once SERVICE has exited. -/
theorem Turned.events (h : Turned turn sv s sv' s') (hs : RingInv s) :
    ∃ es, (∀ later, runEvents (es ++ later) s = runEvents later s') ∧
      es.filter Event.isArrival = (arrivals [turn]).map .rx ∧ ∀ e ∈ es, e.OfService := by
  have read {a : Offset} {n : AccessWidth} (ha : legalAccess a n = true) (hof : (Event.read a n).OfService) :
      ∃ es, (∀ later, runEvents (es ++ later) s = runEvents later (respond (.data (memRead a n s)) s)) ∧
        es.filter Event.isArrival = [] ∧ ∀ e ∈ es, e.OfService :=
    ⟨[.read a n], runEvents_first fun es => .read ha { s with inputs := es }, rfl, by simpa using hof⟩
  cases h with
  | arrival b =>
    refine ⟨[.rx b], runEvents_first fun es => ?_, rfl, fun e he => .inl ?_⟩
    · rw [← rxPortArrival_inputs]
      exact .rx b _
    · rw [List.mem_singleton.1 he]
      rfl
  | parse =>
    refine ⟨[commandStep .parse], runEvents_first fun es => ?_, rfl, fun e he => .inr (.inl (List.mem_singleton.1 he))⟩
    exact .command (decode_encode .parse) (exec_parse_of (s := respond .ok { s with inputs := es }) hs rfl)
  | status => exact read (by decide) (.inr (.inr (.inl rfl)))
  | header => exact read (by decide) (.inr (.inr (.inr (.inl rfl))))
  | @payload _ _ _ _ got _ hgot =>
    obtain ⟨hlegal, hread⟩ := memRead_pktByte s hgot
    exact hread ▸ read hlegal (.inr (.inr (.inr (.inr ⟨got.length, hgot, rfl⟩))))
  | done => exact ⟨[], fun _ => rfl, rfl, nofun⟩

end

theorem arrivals_cons (turn : Turn) (ts : List Turn) : arrivals (turn :: ts) = arrivals [turn] ++ arrivals ts := by
  cases turn <;> rfl

/-- Every run of SERVICE is the run of a list of its steps, with the arrivals in order among them. -/
theorem serviceRun_events (ts : List Turn) {sv : Service} {s : State} (hs : RingInv s) (hk : sv.Knows s) :
    ∃ sv' t, serviceRun ts sv s = .next (sv', t) ∧ sv'.Knows t ∧
      ∃ es, runEvents es s = .next { t with inputs := [] } ∧ es.filter Event.isArrival = (arrivals ts).map .rx ∧
        ∀ e ∈ es, e.OfService := by
  induction ts generalizing sv s with
  | nil => exact ⟨sv, s, rfl, hk, [], rfl, rfl, nofun⟩
  | cons turn ts ih =>
    obtain ⟨sv₁, s₁, h₁⟩ := exists_turned turn hk
    obtain ⟨es₁, hrun₁, harr₁, hof₁⟩ := h₁.events hs
    obtain ⟨sv', t, hrun, hk', es, hruns, harr, hof⟩ := ih (h₁.ringInv hs) (h₁.knows hk)
    refine ⟨sv', t, (h₁.serviceRun_cons hs ts).trans hrun, hk', es₁ ++ es, (hrun₁ es).trans hruns, ?_, fun e he => ?_⟩
    · rw [List.filter_append, harr₁, harr, arrivals_cons turn ts, List.map_append]
    · exact (List.mem_append.1 he).elim (hof₁ e) (hof e)

/-! ## The bound -/

section
variable {sv sv' : Service} {s s' : State}

theorem received_start (s : State) : Service.start.received s = [] := rfl

/-- Every packet delivered has freed at least 7 bytes of the ring (R65, R97). -/
theorem Turned.received_fill_le (h : Turned .host sv s sv' s') (hs : RingInv s) (hk : sv.Knows s) :
    7 * (sv'.received s').length + s'.fill ≤ 7 * (sv.received s).length + s.fill := by
  by_cases hp : sv.phase = .parse
  · obtain ⟨hrec, -, -, hfill, -⟩ := h.of_parse hp rfl
    have hsound := parseBytes_sound s.cfg.scanWindow (live s)
    have hdrop := parseBytes_dropped_le hs
    rw [hrec, hfill, List.length_append]
    cases hpacket : (parseBytes s.cfg.scanWindow (live s)).packet with
    | none =>
      rw [Option.toList_none, List.length_nil]
      omega
    | some p =>
      obtain ⟨-, -, -, hlen⟩ := hsound.of_some hpacket
      rw [Option.toList_some, List.length_singleton]
      omega
  · obtain ⟨hrec, -, hlive, -⟩ := h.quiet hk hp
    rw [hrec, ← live_length s', hlive, live_length]

end

/-- Settles O43: without arrivals the run exits within its budget, and each packet has freed at least 7 bytes; a run
with arrivals is one of SERVICE's steps, and ends with what SERVICE knows in the phase it has come to. -/
theorem serviceEndsWithinItsBound : Obligations.ServiceEndsWithinItsBound := by
  intro s hs
  refine ⟨?_, fun ts => ?_⟩
  · obtain ⟨sv, t, hrun, ⟨hparses, hphase⟩, hdone, hfreed⟩ :=
      service_exits (P := fun sv u => 7 * (sv.received u).length + u.fill ≤ s.fill)
        (fun h hs hk hle => (h.received_fill_le hs hk).trans hle) hs (by simp [received_start])
    rw [hdone] at hphase
    rw [hdone, if_neg nofun] at hparses
    rw [Service.received_eq_out (.inr hdone)] at hfreed
    exact ⟨sv, t, hrun, hdone, hphase, by omega, hparses⟩
  · obtain ⟨sv, t, hrun, ⟨hparses, hphase⟩, hes⟩ := serviceRun_events ts hs (start_knows s)
    refine ⟨sv, t, hrun, hparses, fun h => ?_, fun p h hp => ?_, hes⟩ <;> rw [h] at hphase
    · exact hphase
    · exact hphase p hp

/-! ## Order -/

/-- The frames of packets, one after the other (R63). -/
def framesOf (ps : List Packet) : List Byte := (ps.map (fun p => wireFrame p.code p.seq p.payload)).flatten

/-- A packet as a frame of R63 carries it. -/
def Packet.Framed (p : Packet) : Prop := p.payload.length ≤ 512 ∧ p.len = BitVec.ofNat 16 p.payload.length

/-- Bytes that begin a row of frames with a short tail parse to the first packet, dropping its frame, or while that is
not whole to no packet, dropping nothing. -/
theorem parseBytes_framesOf {W : Nat} (hW : 1 ≤ W) {bs coming tail : List Byte} {qs : List Packet}
    (hqs : ∀ q ∈ qs, q.Framed) (htail : tail.length < 5) (h : bs ++ coming = framesOf qs ++ tail) :
    (∃ q qs', qs = q :: qs' ∧ (parseBytes W bs).packet = some q ∧
      bs.drop (parseBytes W bs).dropped ++ coming = framesOf qs' ++ tail) ∨
    ((parseBytes W bs).packet = none ∧ (parseBytes W bs).dropped = 0 ∧ (coming = [] → qs = [])) := by
  cases qs with
  | nil =>
    have hshort : bs.length < 5 := by
      have := congrArg List.length h
      simp only [framesOf, List.map_nil, List.flatten_nil, List.nil_append, List.length_append] at this
      omega
    rw [parseBytes_short W hshort]
    exact .inr ⟨rfl, rfl, fun _ => rfl⟩
  | cons q qs =>
    obtain ⟨⟨hL, hlen⟩, -⟩ := List.forall_mem_cons.1 hqs
    have hframes : framesOf (q :: qs) ++ tail = wireFrame q.code q.seq q.payload ++ (framesOf qs ++ tail) := by
      simp [framesOf]
    have whole {rest : List Byte} (hbs : bs = wireFrame q.code q.seq q.payload ++ rest)
        (hrest : rest ++ coming = framesOf qs ++ tail) :
        (parseBytes W bs).packet = some q ∧ bs.drop (parseBytes W bs).dropped ++ coming = framesOf qs ++ tail := by
      have hparse := parseBytes_wireFrame (code := q.code) (seq := q.seq) (noise := []) (rest := rest) rfl hW
        q.payload hL
      rw [List.nil_append, ← hbs, ← hlen] at hparse
      refine ⟨by rw [hparse], ?_⟩
      rw [hparse, hbs]
      simpa using hrest
    rw [hframes] at h
    rcases List.append_eq_append_iff.1 h with ⟨more, hframe, hcoming⟩ | ⟨rest, hbs, hrest⟩
    · by_cases hmore : more = []
      · subst hmore
        exact .inl ⟨q, qs, rfl, whole (rest := []) (by rw [hframe]; simp) (by rw [hcoming]; rfl)⟩
      · rw [parseBytes_frame_prefix hW hL hframe.symm hmore]
        exact .inr ⟨rfl, rfl, fun hnone => absurd (List.append_eq_nil_iff.1 (hcoming.symm.trans hnone)).1 hmore⟩
    · exact .inl ⟨q, qs, rfl, whole hbs hrest.symm⟩

/-- SERVICE has been given the packets `ps` but for the last ones `qs`, whose frames, with the tail behind them, the
ring holds as far as the bytes have come. -/
def Service.InOrder (ps qs : List Packet) (tail coming : List Byte) (sv : Service) (s : State) : Prop :=
  sv.received s ++ qs = ps ∧ live s ++ coming = framesOf qs ++ tail

section
variable {sv sv' : Service} {s s' : State} {ps qs : List Packet} {tail coming : List Byte}
  (hps : ∀ p ∈ ps, p.Framed) (htail : tail.length < 5)
include hps htail

/-- A turn of the host keeps the order; with no byte to come, SERVICE stops only when it has been given all. -/
theorem Turned.inOrder_host (h : Turned .host sv s sv' s') (hs : RingInv s) (hk : sv.Knows s)
    (hin : sv.InOrder ps qs tail coming s) :
    ∃ qs', sv'.InOrder ps qs' tail coming s' ∧
      (coming = [] → (sv.Stopped s → qs = []) → sv'.Stopped s' → qs' = []) ∧ s'.fill ≤ s.fill ∧ s'.cfg = s.cfg := by
  obtain ⟨hrec, hbytes⟩ := id hin
  by_cases hp : sv.phase = .parse
  · obtain ⟨hrec', hstop, hlive, hfill, hcfg⟩ := h.of_parse hp rfl
    have hle : s'.fill ≤ s.fill := hfill.trans_le (Nat.sub_le _ _)
    have hqs : ∀ q ∈ qs, q.Framed := fun q hq => hps q (hrec ▸ List.mem_append_right _ hq)
    rcases parseBytes_framesOf (ringInv_scanWindow_pos hs) hqs htail hbytes with
      ⟨q, qs', rfl, hpacket, hrest⟩ | ⟨hpacket, hdropped, hall⟩
    · refine ⟨qs', ⟨?_, by rwa [hlive]⟩, fun _ _ hst => ?_, hle, hcfg⟩
      · rw [hrec', hpacket, Option.toList_some, List.append_assoc]
        exact hrec
      · cases hpacket.symm.trans (hstop.1 hst)
    · refine ⟨qs, ⟨?_, ?_⟩, fun hnone _ _ => hall hnone, hle, hcfg⟩
      · rw [hrec', hpacket, Option.toList_none, List.append_nil, hrec]
      · rw [hlive, hdropped, List.drop_zero, hbytes]
  · obtain ⟨hrec', hstop, hlive, hcfg⟩ := h.quiet hk hp
    refine ⟨qs, ⟨by rw [hrec', hrec], by rw [hlive, hbytes]⟩, fun _ hq hst => hq (hstop hst), ?_, hcfg⟩
    rw [← live_length s', hlive, live_length]

omit hps htail in
/-- An arrival stored in the ring is no longer to come. -/
theorem Turned.inOrder_rx {b : Byte} (h : Turned (.rx b) sv s sv' s') (hin : sv.InOrder ps qs tail (b :: coming) s)
    (hroom : s.fill < s.cfg.rxCapacity) (hs : RingInv s) :
    sv'.InOrder ps qs tail coming s' ∧ s'.fill = s.fill + 1 ∧ s'.cfg = s.cfg := by
  obtain ⟨hrec, hbytes⟩ := hin
  cases h
  obtain ⟨-, hlive, hcfg, -⟩ := rxPortArrival_room hs hroom b
  obtain ⟨hread, hcause⟩ := rxPortArrival_read b s
  have hrec' : sv.received (rxPortArrival b s) = sv.received s := by
    simp only [Service.received, Service.pending, hread, hcause]
  refine ⟨⟨by rw [hrec', hrec], ?_⟩, ?_, hcfg⟩
  · rw [hlive, List.append_assoc]
    exact hbytes
  · rw [← live_length, hlive, List.length_append, live_length, List.length_singleton]

/-- A run under any schedule, none of whose arrivals finds the ring full, keeps the order. -/
theorem serviceRun_inOrder (ts : List Turn) {later : List Byte} (hs : RingInv s) (hk : sv.Knows s)
    (hin : sv.InOrder ps qs tail (arrivals ts ++ later) s) (hroom : s.fill + (arrivals ts).length ≤ s.cfg.rxCapacity) :
    ∃ sv' t qs', serviceRun ts sv s = .next (sv', t) ∧ sv'.InOrder ps qs' tail later t := by
  induction ts generalizing sv s qs with
  | nil => exact ⟨sv, s, qs, rfl, hin⟩
  | cons turn ts ih =>
    obtain ⟨sv₁, s₁, h₁⟩ := exists_turned turn hk
    have hs₁ := h₁.ringInv hs
    have hk₁ := h₁.knows hk
    rw [h₁.serviceRun_cons hs ts]
    cases turn with
    | host =>
      obtain ⟨qs₁, hin₁, -, hfill, hcfg⟩ := h₁.inOrder_host hps htail hs hk hin
      exact ih hs₁ hk₁ hin₁ (by rw [hcfg]; exact (Nat.add_le_add_right hfill _).trans hroom)
    | rx b =>
      have harrivals : arrivals (.rx b :: ts) = b :: arrivals ts := rfl
      rw [harrivals, List.length_cons] at hroom
      obtain ⟨hin₁, hfill, hcfg⟩ := h₁.inOrder_rx hin (by omega) hs
      exact ih hs₁ hk₁ hin₁ (by rw [hcfg]; omega)

end

/-- Settles O44: without arrivals SERVICE stops only when it has been given every packet; under any schedule it has
appended all it has been given but for the packet it reads. -/
theorem serviceDeliversBufferedFramesInOrder : Obligations.ServiceDeliversBufferedFramesInOrder := by
  intro s ps tail hs htail hps
  refine ⟨fun hbytes => ?_, fun ts later hbytes hroom => ?_⟩
  · obtain ⟨sv, t, hrun, -, hdone, qs, ⟨hrec, hlive⟩, hstop⟩ := service_exits
      (P := fun sv u => ∃ qs, sv.InOrder ps qs tail [] u ∧ (sv.Stopped u → qs = []))
      (fun h hs hk ⟨qs, hin, hstop⟩ => by
        obtain ⟨qs', hin', hstop', -⟩ := h.inOrder_host hps htail hs hk hin
        exact ⟨qs', hin', hstop' rfl hstop⟩) hs
      ⟨ps, ⟨rfl, (List.append_nil _).trans hbytes⟩, by simp [Service.Stopped, Service.start]⟩
    obtain rfl := hstop (.inl hdone)
    rw [Service.received_eq_out (.inr hdone), List.append_nil] at hrec
    exact ⟨sv, t, hrun, hdone, hrec, (List.append_nil _).symm.trans hlive⟩
  · obtain ⟨sv, t, qs, hrun, rfl, hlive⟩ := serviceRun_inOrder hps htail ts (qs := ps) hs (start_knows s)
      ⟨rfl, by rw [← List.append_assoc]; exact hbytes⟩ hroom
    have hpending := sv.pending_length_le t
    have hlength : (sv.received t).length = sv.out.length + (sv.pending t).length := List.length_append
    refine ⟨sv, t, (sv.received t).length, hrun, ?_, ?_, ?_, by omega, by omega, fun h => ?_⟩
    · rw [List.length_append]
      exact Nat.le_add_right _ _
    · rw [List.drop_left]
      exact hlive
    · rw [Service.received, List.append_assoc, List.take_left]
    · rw [Service.received_eq_out h]

end Sys2Proof.Machine
end

/-! SUPPORT. The checksum over permuted and over masked bytes (42_checksum.md R104, R105), and the CHECKSUM command
(R106). -/
section
namespace Sys2Proof.Machine

/-- XOR is associative and commutative, so the sum over a list does not depend on its order (R104). -/
theorem xorAll_perm {as bs : List Byte} (h : as.Perm bs) : xorAll as = xorAll bs := h.foldr_op_eq

/-- The sum of masked bytes is the sum of the bytes masked with the sum of the masks (R105). -/
theorem xorAll_zipWith_xor {bs es : List Byte} (h : bs.length = es.length) :
    xorAll (List.zipWith (· ^^^ ·) bs es) = xorAll bs ^^^ xorAll es := by
  induction bs generalizing es with
  | nil => simp [List.length_eq_zero_iff.1 h.symm]
  | cons b bs ih =>
    obtain ⟨e, es, rfl⟩ := List.exists_cons_of_length_eq_add_one h.symm
    rw [List.zipWith_cons_cons, xorAll_cons, ih (Nat.succ.inj h), xorAll_cons, xorAll_cons]
    ac_rfl

/-- Masking the covered bytes masks the checksum with the XOR of all the masks (R105). -/
theorem csum_masked (code lo hi seq eCode eLo eHi eSeq : Byte) {ps es : List Byte} (h : ps.length = es.length) :
    csum (code ^^^ eCode) (lo ^^^ eLo) (hi ^^^ eHi) (seq ^^^ eSeq) (List.zipWith (· ^^^ ·) ps es) =
      csum code lo hi seq ps ^^^ xorAll ([eCode, eLo, eHi, eSeq] ++ es) := by
  rw [csum_eq_xorAll, csum_eq_xorAll]
  exact xorAll_zipWith_xor (bs := [code, lo, hi, seq] ++ ps) (es := [eCode, eLo, eHi, eSeq] ++ es) (by simp [h])

/-- Exchanging two entries of a list permutes it. -/
theorem exchange_perm {α : Type} (x y : α) (before between after : List α) :
    (before ++ y :: between ++ x :: after).Perm (before ++ x :: between ++ y :: after) := by
  have toFront (u v : α) : (before ++ u :: between ++ v :: after).Perm (v :: u :: (before ++ between ++ after)) :=
    List.perm_middle.trans (.cons v (List.perm_middle.append_right after))
  exact (toFront y x).trans ((List.Perm.swap ..).trans (toFront x y).symm)

/-- Settles O45: the checksum is the XOR over the list of the covered bytes. -/
theorem checksumIgnoresTheOrderOfItsBytes : Obligations.ChecksumIgnoresTheOrderOfItsBytes := by
  intro code lo hi seq code' lo' hi' seq' ps ps' hperm
  rw [csum_eq_xorAll, csum_eq_xorAll]
  exact xorAll_perm hperm

/-- Settles O46: the masks change the checksum by their XOR, and an exchange is a permutation of the covered bytes. -/
theorem checksumDetectsExactlyNonzeroMaskSums : Obligations.ChecksumDetectsExactlyNonzeroMaskSums := by
  intro code lo hi seq eCode eLo eHi eSeq ps es hlen
  constructor
  · rw [csum_masked code lo hi seq eCode eLo eHi eSeq hlen]
    exact not_congr xor_left_eq_self_iff
  · rintro x y before between after rfl
    exact checksumIgnoresTheOrderOfItsBytes _ _ _ _ _ _ _ _ _ _
      ((exchange_perm x y before between after).append_left [code, lo, hi, seq])

/-- Settles O47: either answer only ends the command, and the TX operands' checksum is the XOR over their bytes. -/
theorem checksumCommandReturnsTheTxChecksum : Obligations.ChecksumCommandReturnsTheTxChecksum := by
  intro s
  by_cases hlong : 512 < s.txLen.toNat
  · exact ⟨_, exec_checksum_long hlong, finish_keepsAllButOutcome .., fun _ => ⟨rfl, rfl⟩,
      fun hshort => absurd hlong (Nat.not_lt.2 hshort)⟩
  · refine ⟨_, exec_checksum_ok (Nat.not_lt.1 hlong), finish_keepsAllButOutcome .., fun h => absurd h hlong,
      fun _ => ⟨rfl, ?_⟩⟩
    exact congrArg (BitVec.setWidth 32) (csum_eq_xorAll ..)

end Sys2Proof.Machine
end

/-! SUPPORT. ENCODE and SEND (43_transmit_encoder.md R107 to R110): the frame of the TX operands goes out whole or not
at all, its bytes fed back through the RX port are the packet again, and SEND writes its operands, then encodes them. -/
section
namespace Sys2Proof.Machine

/-- Settles O48: a rejected length only ends the command, and an accepted one only appends the frame and counts it. -/
theorem encodeEmitsTheFrameWholeOrNotAtAll : Obligations.EncodeEmitsTheFrameWholeOrNotAtAll := by
  intro s
  by_cases hlong : 512 < s.txLen.toNat
  · obtain ⟨hring, hovf, hill, hcounts, hpacket, hoperands, houtput, hsurroundings⟩ :=
      finish_keepsAllButOutcome .tooLong 0 s
    exact ⟨_, exec_encode_long hlong, hring, hovf, hill, hcounts, hpacket, hoperands, hsurroundings,
      fun _ => ⟨⟨rfl, rfl⟩, houtput⟩, fun hfits => absurd hlong (Nat.not_lt.2 hfits)⟩
  · have hfits := Nat.not_lt.1 hlong
    exact ⟨_, exec_encode_ok hfits, ⟨fun _ => rfl, rfl, rfl, rfl, rfl⟩, ⟨rfl, rfl⟩, rfl, ⟨rfl, rfl, rfl⟩,
      ⟨rfl, rfl, rfl, fun _ => rfl⟩, ⟨rfl, rfl, rfl, fun _ => rfl⟩, ⟨rfl, rfl, rfl, rfl⟩,
      fun h => absurd h hlong, fun _ => ⟨⟨rfl, rfl⟩, rfl, rfl⟩⟩

/-- Settles O50: ENCODE leaves the ring empty, so the bytes fed back are the whole frame in it. -/
theorem encodedBytesParseBackThroughTheRxPort : Obligations.EncodedBytesParseBackThroughTheRxPort := by
  intro s hring hempty hL hcap
  obtain ⟨t, hx, ⟨-, hrd, hwr, hfill, hpeak⟩, -, -, -, -, -, ⟨hcfg, -⟩, -, hemits⟩ :=
    encodeEmitsTheFrameWholeOrNotAtAll s
  obtain ⟨-, hout, -⟩ := hemits hL
  have hlength := txBytes_length s s.txLen.toNat
  have hframe : live t ++ t.txout.drop s.txout.length = wireFrame s.txCode s.txSeq (txBytes s s.txLen.toNat) := by
    rw [live_eq_nil.2 (hfill.trans hempty), hout, List.drop_left]
    rfl
  obtain ⟨u, hrun, hcause, hpacket⟩ :=
    runEvents_completedFrame (hring.congr hcfg hrd hwr hfill hpeak) (by omega) (by rw [hcfg]; omega) hframe
  rw [hlength, BitVec.ofNat_toNat, BitVec.setWidth_eq] at hpacket
  exact ⟨t, u, hx, hrun, hcause, hpacket⟩

/-! ## SEND -/

/-- A byte write emits nothing, wherever its offset lies: no command is issued but by a whole word (R26, R41). -/
theorem Performed.byteWrite_keepsTxOutput {a : Offset} {v : Word} {s t : State}
    (h : Performed (.write a .byte v) s t) : KeepsTxOutput s t := by
  cases h with
  | _ => exact ⟨rfl, rfl⟩

/-- An 8-bit write's byte, put on the bus, lies in its one lane (R43). -/
theorem lanes_byte (p : Byte) : lanes (p.setWidth 32) AccessWidth.byte.bytes = [p] := by
  have hlane : lane (p.setWidth 32) 0 = p :=
    (BitVec.extractLsb'_setWidth_of_le (by decide)).trans BitVec.extractLsb'_eq_self
  exact congrArg (fun b => [b]) hlane

/-- An 8-bit write inside TX_PAYLOAD's window stores its byte (R37, R46). -/
theorem performed_txByteWrite {i : Nat} (hi : i < 512) (p : Byte) (s : State) :
    Performed (.write (BitVec.ofNat 12 (0x600 + i)) .byte (p.setWidth 32)) s
      (writeTxPayload i [p] (respond .ok s)) := by
  have ha : (BitVec.ofNat 12 (0x600 + i)).toNat = 0x600 + i := by rw [BitVec.toNat_ofNat]; omega
  have hlegal : legalAccess (BitVec.ofNat 12 (0x600 + i)) .byte = true :=
    legalAccess_iff.2 (.inr ⟨by omega, by omega, Nat.mod_one _⟩)
  have hwrite := Performed.writeTxPayload hlegal (regionOf_of_legal_high hlegal (by omega)) (p.setWidth 32) s
  rwa [ha, Nat.add_sub_cancel_left, lanes_byte] at hwrite

/-- SEND's payload writes emit nothing, and while they stay inside the window they store the payload (R70). -/
theorem runEvents_sendPayload (i : Nat) (ps : List Byte) (es : List Event) (s : State) :
    ∃ t, runEvents (sendPayload i ps ++ es) s = runEvents es t ∧ KeepsTxOutput s t ∧
      (i + ps.length ≤ 512 → t.txPayload = Memory.storeAll s.txPayload i ps) := by
  induction ps generalizing i s with
  | nil => exact ⟨s, rfl, ⟨rfl, rfl⟩, fun _ => rfl⟩
  | cons p ps ih =>
    obtain ⟨s₁, hwrite⟩ := exists_performed (.write (BitVec.ofNat 12 (0x600 + i)) .byte (p.setWidth 32))
      { s with inputs := sendPayload (i + 1) ps ++ es }
    obtain ⟨hcount, hout⟩ := hwrite.byteWrite_keepsTxOutput
    obtain ⟨t, hrun, ⟨hcount', hout'⟩, hstored⟩ := ih (i + 1) s₁
    refine ⟨t, (runEvents_cons hwrite).trans hrun, ⟨hcount'.trans hcount, hout'.trans hout⟩, fun hfits => ?_⟩
    rw [List.length_cons] at hfits
    have hbyte := performed_txByteWrite (show i < 512 by omega) p { s with inputs := sendPayload (i + 1) ps ++ es }
    obtain rfl := Host.Outcome.next.inj (hwrite.perform_eq.symm.trans hbyte.perform_eq)
    exact hstored (by omega)

/-- TX_PAYLOAD reads back a run of writes from its first byte on (R37). -/
theorem txBytes_of_storeAll {s : State} {m : Memory} {ps : List Byte} (h : s.txPayload = Memory.storeAll m 0 ps) :
    txBytes s ps.length = ps := by
  refine List.ext_getElem (txBytes_length s _) fun i _ hi => ?_
  simp [txBytes, txByte, h, Memory.cellAt_storeAll, hi]

/-- The write of SEND's header sets TX_CODE, TX_SEQ and TX_LEN (R34, R70). -/
theorem writeTxHdr_sendHeader (code seq : Byte) (length : Nat) (s : State) :
    writeTxHdr (sendHeader code seq length) s =
      { s with txCode := code, txSeq := seq, txLen := BitVec.ofNat 16 length } := by
  obtain ⟨hcode, hseq, hlength⟩ := extract_header (BitVec.ofNat 16 length) seq code
  rw [writeTxHdr, sendHeader, hcode, hseq, hlength]

/-- SEND's writes emit nothing and leave its operands for ENCODE: header and length always, the payload if it fits the
window (R70, R110). -/
theorem runEvents_sendOperands (code seq : Byte) (payload : List Byte) (es : List Event) (s : State) :
    ∃ t, runEvents (sendPayload 0 payload ++ .write 0x030 .word (sendHeader code seq payload.length) :: es) s =
        runEvents es t ∧
      KeepsTxOutput s t ∧ t.txCode = code ∧ t.txSeq = seq ∧ t.txLen = BitVec.ofNat 16 payload.length ∧
      (payload.length ≤ 512 → txBytes t payload.length = payload) := by
  obtain ⟨t, hrun, houtput, hstored⟩ :=
    runEvents_sendPayload 0 payload (.write 0x030 .word (sendHeader code seq payload.length) :: es) s
  have hheader := Performed.writeTxHdr (sendHeader code seq payload.length) { t with inputs := es }
  rw [writeTxHdr_sendHeader] at hheader
  exact ⟨_, hrun.trans (runEvents_cons hheader), houtput, rfl, rfl, rfl,
    fun hfits => txBytes_of_storeAll (hstored (by omega))⟩

/-- Settles O51: SEND's last step is an ENCODE of the operands its writes left. -/
theorem sendEmitsTheFrameOfItsOperands : Obligations.SendEmitsTheFrameOfItsOperands := by
  intro s code seq payload hlength
  obtain ⟨t, hrun, ⟨hcount, hout⟩, hcode, hseq, hlen, hpayload⟩ :=
    runEvents_sendOperands code seq payload [commandStep .encode] s
  obtain ⟨u, hx, -, -, -, -, -, -, -, hlong, hfits⟩ :=
    encodeEmitsTheFrameWholeOrNotAtAll (respond .ok { t with inputs := [] })
  have hencode : runEvents [commandStep .encode] t = .next { u with inputs := [] } :=
    runEvents_cons (.command (decode_encode .encode) hx)
  have hL : t.txLen.toNat = payload.length := by rw [hlen, BitVec.toNat_ofNat]; omega
  refine ⟨_, hrun.trans hencode, fun hshort => ?_, fun hover => ?_⟩
  · obtain ⟨hends, hemitted, hcounted⟩ := hfits (hL.trans_le hshort)
    refine ⟨hL ▸ hends, hemitted.trans ?_, hcounted.trans (congrArg (· + 1) hcount)⟩
    show t.txout ++ wireFrame t.txCode t.txSeq (txBytes t t.txLen.toNat) = _
    rw [hout, hcode, hseq, hL, hpayload hshort]
  · obtain ⟨hends, hcount', hout'⟩ := hlong (hover.trans_eq hL.symm)
    exact ⟨hends, hcount'.trans hcount, hout'.trans hout⟩

end Sys2Proof.Machine
end

/-! SUPPORT. How EXECUTE ends, said once as an inductive relation whose constructors are the outcome codes of
60_exceptions.md R111: what CAUSE says of the word and of the state it met (R112, R113, R117). -/
section
namespace Sys2Proof.Machine

/-- `Ended w s t`: EXECUTE of `w` in `s` can end in `t`. A failure answers the whole state it ends in, the other codes
what R111 says of them. -/
inductive Ended (w : Word) (s : State) : State → Prop
  | ok {i : Instr} {t : State} (hd : decode w = .ok i) (hc : t.cause = .ok) : Ended w s t
  | empty (hd : decode w = .ok .pop ∨ decode w = .ok .peek) (h : s.fill = 0) : Ended w s (finish .empty 0 s)
  | full {b : Byte} (hd : decode w = .ok (.push b)) (h : s.fill = s.cfg.rxCapacity) :
      Ended w s (finish .full 0 (rejectPush s))
  | range {n : Half} (hd : decode w = .ok (.peekAt n)) (h : s.fill ≤ n.toNat) : Ended w s (finish .range 0 s)
  | tooLong (hd : decode w = .ok .encode ∨ decode w = .ok .checksum) (h : 512 < s.txLen.toNat) :
      Ended w s (finish .tooLong 0 s)
  | illegal (hd : ¬ ∃ i, decode w = .ok i) : Ended w s (illegalCommand s)
  | evicted {b : Byte} {t : State} (hd : decode w = .ok (.rxByte b)) (h : s.fill = s.cfg.rxCapacity)
      (hc : t.cause = .evicted) (hr : t.result = BitVec.ofNat 32 (rxArrive b s).1) : Ended w s t
  | noPacket {o : ParseOutcome} {t : State} (hd : decode w = .ok .parse) (hx : exec .parse s = .next t)
      (ho : o ≠ .packet) (hc : t.cause = o.cause) : Ended w s t

/-- Each command ends in one of these ways, in every state (R111, R116). -/
theorem exec_ended {w : Word} {i : Instr} (hd : decode w = .ok i) (s : State) :
    ∃ t, exec i s = .next t ∧ Ended w s t := by
  cases i with
  | push b =>
    by_cases h : s.fill = s.cfg.rxCapacity
    · exact ⟨_, exec_push_full h b, .full hd h⟩
    · exact ⟨_, exec_push_room h b, .ok hd rfl⟩
  | pop =>
    by_cases h : s.fill = 0
    · exact ⟨_, exec_pop_empty h, .empty (.inl hd) h⟩
    · exact ⟨_, exec_pop_some h, .ok hd rfl⟩
  | peek =>
    by_cases h : s.fill = 0
    · exact ⟨_, exec_peek_empty h, .empty (.inr hd) h⟩
    · exact ⟨_, exec_peek_some h, .ok hd rfl⟩
  | peekAt n =>
    by_cases h : s.fill ≤ n.toNat
    · exact ⟨_, exec_peekAt_range h, .range hd h⟩
    · exact ⟨_, exec_peekAt_some (by omega), .ok hd rfl⟩
  | discard n => exact ⟨_, exec_discard n s, .ok hd rfl⟩
  | available => exact ⟨_, exec_available s, .ok hd rfl⟩
  | free => exact ⟨_, exec_free s, .ok hd rfl⟩
  | capacity => exact ⟨_, exec_capacity s, .ok hd rfl⟩
  | clear => exact ⟨_, exec_clear s, .ok hd rfl⟩
  | rxByte b =>
    by_cases h : (rxArrive b s).1 = 0
    · exact ⟨_, exec_rxByte b s, .ok hd (if_pos h)⟩
    · have hfull : s.fill = s.cfg.rxCapacity := by
        by_contra hroom
        exact h (by rw [rxArrive_room hroom])
      exact ⟨_, exec_rxByte b s, .evicted hd hfull (if_neg h) rfl⟩
  | parse =>
    by_cases ho : (parseOne s).1 = .packet
    · exact ⟨_, rfl, .ok hd (ParseOutcome.cause_eq_ok.2 ho)⟩
    · exact ⟨_, rfl, .noPacket hd rfl ho rfl⟩
  | checksum =>
    by_cases h : s.txLen.toNat ≤ 512
    · exact ⟨_, exec_checksum_ok h, .ok hd rfl⟩
    · exact ⟨_, exec_checksum_long (by omega), .tooLong (.inr hd) (by omega)⟩
  | encode =>
    by_cases h : s.txLen.toNat ≤ 512
    · exact ⟨_, exec_encode_ok h, .ok hd rfl⟩
    · exact ⟨_, exec_encode_long (by omega), .tooLong (.inl hd) (by omega)⟩

theorem execute_ended {w : Word} {s t : State} (h : execute w s = .next t) : Ended w s t := by
  cases hd : decode w with
  | ok i =>
    obtain ⟨u, hx, hu⟩ := exec_ended hd s
    rw [execute, hd] at h
    rwa [Host.Outcome.next.inj (h.symm.trans hx)]
  | error r =>
    rw [execute, hd] at h
    rw [← Host.Outcome.next.inj h]
    exact .illegal fun ⟨i, hi⟩ => nomatch hd.symm.trans hi

/-! ## Steps -/

/-- Every step is answered, with nothing pending as with a step pending (R23, R116). -/
theorem exists_step (s : State) : ∃ t, step s = .next t := by
  cases hi : s.inputs with
  | nil => exact ⟨s, step_nil hi⟩
  | cons e rest =>
    obtain ⟨t, ht⟩ := exists_performed e { s with inputs := rest }
    exact ⟨t, (step_cons hi).trans ht.perform_eq⟩

/-! ## RESULT -/

/-- PARSE's RESULT is the number of bytes it took from the ring (R89). -/
theorem exec_parse_result {s t : State} (h : RingInv s) (hx : exec .parse s = .next t) :
    t.result.toNat = s.fill - t.fill := by
  obtain rfl := Host.Outcome.next.inj (hx.symm.trans (exec_parse_of h rfl))
  obtain ⟨-, -, -, hfill, -⟩ := id h
  have hdropped := parseBytes_dropped_le h
  have hresult := h.ofNat_toNat (hdropped.trans hfill)
  exact hresult.trans (Nat.sub_sub_self hdropped).symm

/-- RXBYTE's RESULT, when it evicts, is the chunk (R86). -/
theorem evicted_result {s : State} (h : RingInv s) (hf : s.fill = s.cfg.rxCapacity) (b : Byte) :
    (BitVec.ofNat 32 (rxArrive b s).1).toNat = s.cfg.ovfChunk := by
  obtain ⟨⟨-, -, -, -, -, hle, -⟩, -⟩ := id h
  rw [rxArrive_full h hf]
  exact h.ofNat_toNat hle

/-! ## What a failure changes -/

/-- A command that only sets flags and OVF_COUNT before it ends leaves everything else (R112). -/
theorem finish_flags_frame (c : Cause) (s : State) {n : Word} {o i : Bool}
    (ho : c ≠ .full → n = s.ovfCount ∧ o = s.ovf) (hi : c ≠ .illegal → i = s.ill) :
    let t := finish c 0 { s with ovfCount := n, ovf := o, ill := i }
    t.result = 0 ∧ KeepsRing s t ∧ KeepsReceiveCounts s t ∧ KeepsPacket s t ∧ KeepsTxOperands s t ∧
      KeepsTxOutput s t ∧ KeepsSurroundings s t ∧
      (t.cause ≠ .full → KeepsOverflow s t) ∧ (t.cause ≠ .illegal → t.ill = s.ill) :=
  ⟨rfl, ⟨fun _ => rfl, rfl, rfl, rfl, rfl⟩, ⟨rfl, rfl, rfl⟩, ⟨rfl, rfl, rfl, fun _ => rfl⟩,
    ⟨rfl, rfl, rfl, fun _ => rfl⟩, ⟨rfl, rfl⟩, ⟨rfl, rfl, rfl, rfl⟩, ho, hi⟩

/-! ## Statements -/

/-- Settles O21: each way of ending is its row of R111's table. -/
theorem causesAreSetAsTabled : Obligations.CausesAreSetAsTabled := by
  refine ⟨rfl, fun w s t hs hx => ?_⟩
  cases execute_ended hx with
  | ok hd hc => rw [hc]; exact ⟨_, hd⟩
  | empty hd h => exact And.intro hd ⟨h, rfl⟩
  | full hd h => exact And.intro ⟨_, hd⟩ ⟨h, rfl⟩
  | range hd h => exact And.intro ⟨_, hd, h⟩ rfl
  | tooLong hd h => exact And.intro hd ⟨h, rfl⟩
  | illegal hd => exact And.intro hd rfl
  | evicted hd h hc hr => rw [hc, hr]; exact ⟨⟨_, hd⟩, h, evicted_result hs h _⟩
  | @noPacket o _ hd hp ho hc =>
    have hrow := And.intro hd (exec_parse_result hs hp)
    rw [hc]
    cases o with
    | packet => exact absurd rfl ho
    | _ => exact hrow

/-- Settles O22: a failure only finishes, but for the rejected push and the illegal word; OK, EVICTED and the no-packet
codes lie outside 0x1 to 0x5. -/
theorem failingCommandsChangeOnlyTheOutcome : Obligations.FailingCommandsChangeOnlyTheOutcome := by
  refine ⟨fun _ _ _ => rfl, fun w s t hx hlo hhi => ?_⟩
  cases execute_ended hx with
  | ok _ hc => rw [hc] at hlo; exact absurd hlo (by decide)
  | empty | range | tooLong => exact finish_flags_frame _ s (fun _ => ⟨rfl, rfl⟩) (fun _ => rfl)
  | full => exact finish_flags_frame .full s (absurd rfl) (fun _ => rfl)
  | illegal => exact finish_flags_frame .illegal s (fun _ => ⟨rfl, rfl⟩) (absurd rfl)
  | evicted _ _ hc => rw [hc] at hhi; exact absurd hhi (by decide)
  | @noPacket o _ _ _ ho hc =>
    rw [hc] at hhi
    cases o with
    | packet => exact absurd rfl ho
    | _ => exact absurd hhi (by decide)

/-- Settles O10: a reset step leads to the reset values by computation. -/
theorem everyCommandAndStepIsAnswered : Obligations.EveryCommandAndStepIsAnswered := by
  refine ⟨fun i s => ?_, exists_step, fun s rest hi => ⟨_, step_cons hi, rfl, rfl⟩⟩
  obtain ⟨c, r, t, hx, -⟩ := exec_answers i s
  exact ⟨_, hx⟩

end Sys2Proof.Machine
end

/-! SUPPORT. FILL under RX arrivals (70_reset_and_hazards.md R135): on a full ring an arrival evicts OVF_CHUNK bytes to
store one (40_receive_buffer.md R75), so FILL falls when the chunk is at least 2. -/
section
namespace Sys2Proof.Machine

/-- An arrival into a full ring lowers FILL when it evicts more than the one byte it stores (R75). -/
theorem step_rx_full_lowers_fill {s : State} {b : Byte} {rest : List Event} (h : RingInv s)
    (hi : s.inputs = .rx b :: rest) (hf : s.fill = s.cfg.rxCapacity) (hchunk : 2 ≤ s.cfg.ovfChunk) :
    ∃ t, step s = .next t ∧ t.fill < s.fill := by
  obtain ⟨⟨-, -, -, -, -, hle, -⟩, -⟩ := id h
  obtain ⟨t, ht, -, -, -, -, -, -, -, -, -, -, -, -, -, hfull⟩ := arrivalIsStoredEvictingAChunkWhenFull b s rest h hi
  obtain ⟨-, hfill, -⟩ := hfull hf
  exact ⟨t, ht, by omega⟩

/-- R86's example as an arrival: CAP 8, OVF_CHUNK 3, the ring full of 01 to 08, and 09 about to arrive. -/
def arrivalAtFullRing : State :=
  { State.resetWith ⟨8, 256, 3, 0⟩ with
    rxbuf := [(0, 1), (1, 2), (2, 3), (3, 4), (4, 5), (5, 6), (6, 7), (7, 8)]
    fill := 8
    peak := 8
    inputs := [.rx 9] }

theorem arrivalAtFullRing_inv : Inv arrivalAtFullRing := by decide

/-- Refutes O60: the arrival takes FILL from 8 to 6 (R75, log 24). -/
theorem not_fillIsALowerBoundUnderArrivals : ¬ Obligations.FillIsALowerBoundUnderArrivals := by
  intro hbound
  obtain ⟨t, ht, hlt⟩ :=
    step_rx_full_lowers_fill (s := arrivalAtFullRing) arrivalAtFullRing_inv.1 rfl rfl (by decide)
  exact Nat.not_le_of_lt hlt (hbound _ t 9 [] arrivalAtFullRing_inv rfl ht)

end Sys2Proof.Machine
end
